-- ==== Sys2Proof/Word.lean ====
section
/-! DEFINITION. The datum widths of the block (spec 00_scope R10, R12, R13). -/

namespace Sys2Proof

/-- A word is 32 bits (R12): every register, every bus datum, every binary32 bit pattern. -/
abbrev Word := BitVec 32

/-- Byte `k` of a word is bits `8k+7:8k` (20_memory R160). -/
abbrev Byte := BitVec 8

/-- One SMP code, a 16-bit two's complement value (00_scope R13, 20_memory R159). -/
abbrev Code := BitVec 16

end Sys2Proof
end

