-- ==== Sys2Proof/Config.lean ====
section
/-! DEFINITION. The parameters of an instance (spec 00_scope R9) and the free values: what the spec leaves open and
no proof may know (93_implementation_defined). -/

namespace Sys2Proof

/-- The parameters of 00_scope R9 that a command's result can depend on: the six capacities and the three kernel
tables. They are fixed for an instance of the block (10_state R50); State carries them in a field that no step writes
(DESIGN CHOICE, log 4, safe), so that a statement about every state is a statement about every instance. -/
structure Params where
  /-- CAP_KMAX: depth of KMEM in taps. -/
  capKmax : Word
  /-- CAP_HIST: depth of the history store in samples. -/
  capHist : Word
  /-- CAP_IN: depth of the window IN. -/
  capIn   : Word
  /-- CAP_OUT: depth of the window OUT. -/
  capOut  : Word
  /-- CAP_DST: depth of the window DST. -/
  capDst  : Word
  /-- CAP_SMP: depth of the sample memory SMP. -/
  capSmp  : Word
  /-- KTAB2: the factor-2 kernel, the window KROM_0 (20_memory R153). -/
  ktab2   : Vector Word 41
  /-- KTAB3: the factor-3 kernel, the window KROM_1. -/
  ktab3   : Vector Word 61
  /-- KTAB4: the factor-4 kernel, the window KROM_2. -/
  ktab4   : Vector Word 81
deriving DecidableEq, Repr

/-- KTAB2 of the reference instance: OPEN in the spec (00_scope R9, 93 item I-KTAB), so no value is chosen. -/
opaque Config.ktab2 : Vector Word 41
/-- KTAB3 of the reference instance: OPEN (I-KTAB). -/
opaque Config.ktab3 : Vector Word 61
/-- KTAB4 of the reference instance: OPEN (I-KTAB). -/
opaque Config.ktab4 : Vector Word 81

/-- The reference instance: the default capacities of 00_scope R9, the kernel tables left open. -/
def Config.reference : Params where
  capKmax := 128
  capHist := 256
  capIn   := 4096
  capOut  := 4096
  capDst  := 4096
  capSmp  := 0x100000
  ktab2   := Config.ktab2
  ktab3   := Config.ktab3
  ktab4   := Config.ktab4

/-- The free contents of a memory byte after a power-on reset (70_reset R582, 93 item I-PONMEM: any value, stable
until written). The first argument numbers the power-on resets, the second is the byte offset. -/
opaque Config.powerOnByte : Nat → Nat → Byte

/-- The free sign of the NaN that binary32 operation number `d` produces (00_scope R15, 93 item I-NAN). -/
opaque Config.nanSign : Nat → Bool

/-- The free fraction of the NaN that binary32 operation number `d` produces (I-NAN); a draw of 0 is read as 1,
because a NaN's fraction is not zero. -/
opaque Config.nanFraction : Nat → BitVec 23

end Sys2Proof
end

