-- ==== Sys2Proof/Syntax.lean ====
section
/-! DEFINITION. The command set (spec 30_encoding R202), one constructor for each row of spec/opcode_table.json, and
the syntax of host programs (R207 to R209). A command word has no operand field (R204): a command's operands are ARG
registers, so every constructor is a bare name. -/

namespace Sys2Proof

/-- The seventeen commands. -/
inductive Instr where
  | nop         -- 0x00, 43_block_control R500
  | srst        -- 0x01, R501
  | rseInit     -- 0x10, 40_resample_engine R260
  | rseDeinit   -- 0x11, R264
  | rseApply    -- 0x12, R265
  | rseLenin    -- 0x13, R275
  | rseLenout   -- 0x14, R277
  | rseIsbyp    -- 0x15, R279
  | rseGcd      -- 0x16, R281
  | rrcConfig   -- 0x20, 41_rate_controller R350
  | rrcNext     -- 0x21, R360
  | envOn       -- 0x30, 42_envelope R400
  | envOff      -- 0x31, R405
  | envSetadsr  -- 0x32, R407
  | envSetfade  -- 0x33, R409
  | envPlay     -- 0x34, R440
  | envRemain   -- 0x35, R446
deriving DecidableEq, Repr

/-- What the host does on the bus in one clock cycle: nothing, or one whole-word transaction (20_memory R156).
Addresses are byte offsets from BASE (DESIGN CHOICE, log 10, safe). -/
inductive BusOp where
  | idle
  | read (addr : Word)
  | write (addr v : Word)
deriving DecidableEq, Repr

/-- One clock cycle as the block sees it from outside: the level of the reset input `rst` (70_reset R580) and the
host's bus transaction. -/
structure HostCycle where
  rst : Bool
  bus : BusOp
deriving DecidableEq, Repr

end Sys2Proof
end

