-- ==== Sys2Proof/WellFormed.lean ====
section
/-! DEFINITION. What may be built: the legal parameters of an instance (spec 00_scope R9) and the legal command words
(30_encoding R200, R202, R206). A command has no operand field (R204), so every `Instr` is well formed; the checks are
on the raw data, the parameters and the words. -/

namespace Sys2Proof

/-- The legal range of CAP_KMAX (00_scope R9). -/
def Params.kmaxLegal (p : Params) : Bool := 81 ≤ p.capKmax.toNat && p.capKmax.toNat ≤ 1024
/-- The legal range of CAP_HIST (R9). -/
def Params.histLegal (p : Params) : Bool := 83 ≤ p.capHist.toNat && p.capHist.toNat ≤ 4096
/-- The legal range of CAP_IN (R9). -/
def Params.inLegal (p : Params) : Bool := 1 ≤ p.capIn.toNat && p.capIn.toNat ≤ 4096
/-- The legal range of CAP_OUT (R9). -/
def Params.outLegal (p : Params) : Bool := 1 ≤ p.capOut.toNat && p.capOut.toNat ≤ 4096
/-- The legal range of CAP_DST (R9). -/
def Params.dstLegal (p : Params) : Bool := 1 ≤ p.capDst.toNat && p.capDst.toNat ≤ 4096
/-- The legal range of CAP_SMP (R9). -/
def Params.smpLegal (p : Params) : Bool := 1 ≤ p.capSmp.toNat && p.capSmp.toNat ≤ 0x1000000

/-- The parameters are in the legal ranges of 00_scope R9. -/
def Params.legal (p : Params) : Bool :=
  p.kmaxLegal && p.histLegal && p.inLegal && p.outLegal && p.dstLegal && p.smpLegal

/-- The opcode column of the map 30_encoding R202. -/
def listedOpcodes : List Nat :=
  [0x00, 0x01,
   0x10, 0x11, 0x12, 0x13, 0x14, 0x15, 0x16,
   0x20, 0x21,
   0x30, 0x31, 0x32, 0x33, 0x34, 0x35]

/-- The reserved field `w[31:8]` is zero (R200). -/
def wordReservedClear (w : Word) : Bool := w.toNat / 256 == 0

/-- The opcode `w[7:0]` is in the map (R202). -/
def wordOpcodeListed (w : Word) : Bool := listedOpcodes.contains (w.toNat % 256)

/-- The word is a legal command word: it is not one of the illegal words of R206. -/
def wordLegal (w : Word) : Bool := wordReservedClear w && wordOpcodeListed w

end Sys2Proof
end

