-- ==== Sys2Proof/Decode.lean ====
section
/-! DEFINITION. The decoder of spec 30_encoding R201, total on all words, and the encoder of R200 and R202. -/

namespace Sys2Proof

/-- Why a command word is illegal (30_encoding R206). Both raise EILLEGAL (R201). -/
inductive DecodeError where
  /-- bits 31:8 are not zero -/
  | reservedBits
  /-- the opcode is not in the map of R202 -/
  | unlistedOpcode
deriving DecidableEq, Repr

/-- The opcode map of R202, read from the opcode `UNIT :: FUNC`. -/
def decodeOpcode (op : Byte) : Except DecodeError Instr :=
  match op.toNat with
  | 0x00 => .ok .nop
  | 0x01 => .ok .srst
  | 0x10 => .ok .rseInit
  | 0x11 => .ok .rseDeinit
  | 0x12 => .ok .rseApply
  | 0x13 => .ok .rseLenin
  | 0x14 => .ok .rseLenout
  | 0x15 => .ok .rseIsbyp
  | 0x16 => .ok .rseGcd
  | 0x20 => .ok .rrcConfig
  | 0x21 => .ok .rrcNext
  | 0x30 => .ok .envOn
  | 0x31 => .ok .envOff
  | 0x32 => .ok .envSetadsr
  | 0x33 => .ok .envSetfade
  | 0x34 => .ok .envPlay
  | 0x35 => .ok .envRemain
  | _    => .error .unlistedOpcode

/-- Bits 7:0 of a command word: its opcode, and what ERROPC records of it (R200, R201). -/
def opcodeOf (w : Word) : Byte := w.extractLsb' 0 8

/-- `decode(w)` of R201: the reserved field first, then the opcode. -/
def decode (w : Word) : Except DecodeError Instr :=
  if w.extractLsb' 8 24 = 0 then decodeOpcode (opcodeOf w) else .error .reservedBits

/-- The UNIT field of a command (R200: 0 block control, 1 RSE, 2 RRC, 3 ENV). -/
def unitField : Instr → BitVec 4
  | .nop | .srst => 0
  | .rseInit | .rseDeinit | .rseApply | .rseLenin | .rseLenout | .rseIsbyp | .rseGcd => 1
  | .rrcConfig | .rrcNext => 2
  | .envOn | .envOff | .envSetadsr | .envSetfade | .envPlay | .envRemain => 3

/-- The FUNC field of a command: the function within its unit (R200, R202). -/
def funcField : Instr → BitVec 4
  | .nop => 0
  | .srst => 1
  | .rseInit => 0
  | .rseDeinit => 1
  | .rseApply => 2
  | .rseLenin => 3
  | .rseLenout => 4
  | .rseIsbyp => 5
  | .rseGcd => 6
  | .rrcConfig => 0
  | .rrcNext => 1
  | .envOn => 0
  | .envOff => 1
  | .envSetadsr => 2
  | .envSetfade => 3
  | .envPlay => 4
  | .envRemain => 5

/-- The word of a command: `RSVD = 0`, then `UNIT :: FUNC` (R200, format C). -/
def encode (i : Instr) : Word := (0 : BitVec 24) ++ unitField i ++ funcField i

/-- The command that the decoder reads from an instruction whose bits are `w`, bit 0 the least significant bit of the
one 32-bit word every command is (R203); bits at or above `nbits` are 0. More than 32 bits is no command. -/
def decodeTableWord (nbits w : Nat) : Option Instr :=
  if nbits ≤ 32 then
    match decode (BitVec.ofNat 32 (w % 2 ^ nbits)) with
    | .ok i => some i
    | .error _ => none
  else none

end Sys2Proof
end

