-- ==== Sys2Proof/Machine/State.lean ====
section
/-! DEFINITION. The architectural state of one block (spec 10_state R50), as plain data, and its reset values (R96).
Constants of an instance, the host's input and three counters of the model's own stand beside it and are marked. -/

namespace Sys2Proof.Machine

/-- STATUS but for BUSY (10_state R53), which is the presence of a command in flight. Reserved bits read 0. -/
structure Status where
  err     : Bool
  errmult : Bool
  unr     : Bool
  ovr     : Bool
  clamp   : Bool
  coll    : Bool
  errcode : Byte
  erropc  : Byte
deriving DecidableEq, Repr

/-- ARG0 to ARG3 (R54). -/
structure ArgRegs where
  a0 : Word
  a1 : Word
  a2 : Word
  a3 : Word
deriving DecidableEq, Repr

/-- RES0 to RES3 (R54). -/
structure ResRegs where
  r0 : Word
  r1 : Word
  r2 : Word
  r3 : Word
deriving DecidableEq, Repr

/-- RSE_STAT.MODE (R60); the value 3 is never held. -/
inductive EngineMode where
  | uninit
  | active
  | failed
deriving DecidableEq, Repr

/-- The RSE registers (R60 to R65) and the hidden stores KL, HIST and CARRYBUF (R66 to R68). -/
structure Rse where
  mode     : EngineMode
  byp      : Bool
  u        : Word
  d        : Word
  n        : Word
  klen     : Word
  phl      : Word
  h        : Word
  inmax    : Word
  offmax   : Word
  carry    : Word
  dph      : Word
  outcnt   : Word
  kl       : List Word
  hist     : List Word
  carrybuf : List Word
deriving DecidableEq, Repr

/-- The RRC registers (R70 to R75). -/
structure Rrc where
  valid   : Bool
  bypsel  : Bool
  sel     : BitVec 2
  upreq   : Word
  downreq : Word
  upc     : Word
  downc   : Word
  nblk    : Word
  min     : Word
  max     : Word
  nummin  : Word
  nummax  : Word
  cyc     : Word
  cur     : Word
deriving DecidableEq, Repr

/-- The seven values of ENV_STATE (R83); the code 7 is never held. -/
inductive EnvPhase where
  | ready
  | attack
  | decay
  | sustain
  | release
  | fadeout
  | finished
deriving DecidableEq, Repr

/-- The ENV registers (R80 to R86). `len` is ENV_L. -/
structure Env where
  append : Bool
  smpv   : Bool
  dstv   : Bool
  fs     : Word
  slen   : Word
  phase  : EnvPhase
  atkP   : Word
  decP   : Word
  relP   : Word
  susP   : Word
  fadeP  : Word
  na     : Word
  nd     : Word
  ns     : Word
  nr     : Word
  nf     : Word
  slvl   : Word
  len    : Word
  cursor : Word
  budget : Word
  gain   : Word
  fact   : Word
  tgt    : Word
deriving DecidableEq, Repr

/-- A command in flight (R50(d), R52): the word written to CMD and how many more cycles BUSY stays 1 (70_reset R590). -/
structure Pending where
  word : Word
  left : Nat
deriving DecidableEq, Repr

/-- The state of one block instance. -/
structure State where
  /-- The constants of the instance (00_scope R9); no step writes them (log 4). -/
  inst    : Params
  /-- STATUS but for BUSY. -/
  status  : Status
  arg     : ArgRegs
  res     : ResRegs
  rse     : Rse
  rrc     : Rrc
  env     : Env
  /-- The windows KMEM, IN, OUT, DST and SMP (20_memory R151): the bytes written since power-on, at their byte
  offsets, strictly rising. A byte that is not listed has no stored value (log 6). -/
  mem     : List Host.Cell
  /-- The command in flight; BUSY is 1 exactly when there is one. -/
  pending : Option Pending
  /-- MODEL's own: what the host does in the coming clock cycles, next first (log 1). -/
  host    : List HostCycle
  /-- MODEL's own: the word the last MemRead returned (log 3). -/
  rdata   : Word
  /-- MODEL's own: the number of the last power-on reset; it selects the free power-on contents (log 6). -/
  epoch   : Nat
  /-- MODEL's own: the number of the next free NaN draw (log 8). -/
  draws   : Nat
deriving DecidableEq, Repr

/-- Why the machine stops. -/
inductive Fault where
  /-- Raised by the bus when the host reads, while BUSY is 1, anything but STATUS, ID, VERSION and CAP_*
  (70_reset R591, 93 item I-BUSYRD: "fault (preferred)"). Safe: hardware returns some word and goes on. -/
  | busyRead (offset : Word)
deriving DecidableEq, Repr

/-- Why the model gives no meaning. -/
inductive Refusal where
  /-- For a command without a meaning yet, raised by `exec` alone; no arm raises it, since every command has one. Safe. -/
  | notModelled (mnemonic : String)
deriving DecidableEq, Repr

/-- STATUS = 0 (10_state R96). -/
def Status.zero : Status :=
  { err := false, errmult := false, unr := false, ovr := false, clamp := false, coll := false, errcode := 0, erropc := 0 }

/-- The RSE registers and hidden stores after reset (R96), after RSE_DEINIT (40 R264) and after a tear-down (R261). -/
def Rse.zero : Rse :=
  { mode := .uninit, byp := false, u := 0, d := 0, n := 0, klen := 0, phl := 0, h := 0, inmax := 0, offmax := 0,
    carry := 0, dph := 0, outcnt := 0, kl := [], hist := [], carrybuf := [] }

/-- The RRC registers after reset (R96): the requested and clamped factors are 1, all else 0. -/
def Rrc.atReset : Rrc :=
  { valid := false, bypsel := false, sel := 0, upreq := 1, downreq := 1, upc := 1, downc := 1, nblk := 0,
    min := 0, max := 0, nummin := 0, nummax := 0, cyc := 0, cur := 0 }

/-- The ENV registers after reset (R96): Finished, all else 0. -/
def Env.atReset : Env :=
  { append := false, smpv := false, dstv := false, fs := 0, slen := 0, phase := .finished,
    atkP := 0, decP := 0, relP := 0, susP := 0, fadeP := 0, na := 0, nd := 0, ns := 0, nr := 0, nf := 0,
    slvl := 0, len := 0, cursor := 0, budget := 0, gain := 0, fact := 0, tgt := 0 }

/-- An instance right after its first power-on reset (R96, 70_reset R581, R582): every register at its reset value,
no byte of memory written. The model's own fields start empty or at 0 (DESIGN CHOICE, logs 1, 3, 6, 8). -/
def State.resetOf (p : Params) : State :=
  { inst := p, status := Status.zero, arg := ⟨0, 0, 0, 0⟩, res := ⟨0, 0, 0, 0⟩, rse := Rse.zero, rrc := Rrc.atReset,
    env := Env.atReset, mem := [], pending := none, host := [], rdata := 0, epoch := 0, draws := 0 }

/-- The reference instance right after reset. -/
def State.reset : State := State.resetOf Config.reference

end Sys2Proof.Machine
end

