-- ==== Sys2Proof/Machine/Flags.lean ====
section
/-! DEFINITION. STATUS: its word, its write-one-to-clear rule and its sticky flags (spec 10_state R53, 60_exceptions
R531 to R534). -/

namespace Sys2Proof.Machine

/-- The error codes of 60_exceptions R531, by name. -/
inductive ErrorCode where
  | eillegal
  | enotinit
  | einitcap
  | einlen
  | erange
  | enotcfg
  | edstlen
deriving DecidableEq, Repr

/-- The code that ERRCODE holds for an error (R531). -/
def errorCodeByte : ErrorCode → Byte
  | .eillegal => 0x01
  | .enotinit => 0x02
  | .einitcap => 0x03
  | .einlen   => 0x04
  | .erange   => 0x05
  | .enotcfg  => 0x06
  | .edstlen  => 0x07

/-- The word a read of STATUS returns (10_state R53). -/
def statusWord (busy : Bool) (st : Status) : Word :=
  (0 : BitVec 8) ++ st.erropc ++ st.errcode ++ (0 : BitVec 1) ++ BitVec.ofBool st.coll ++ BitVec.ofBool st.clamp ++
    BitVec.ofBool st.ovr ++ BitVec.ofBool st.unr ++ BitVec.ofBool st.errmult ++ BitVec.ofBool st.err ++ BitVec.ofBool busy

/-- A host write of `w` to STATUS: it clears each W1C bit `i` with `w[i] = 1`, and bit 1 also clears ERRCODE and
ERROPC (R53). This is the acknowledgement of an error, the "return" of R538. -/
def statusClear (st : Status) (w : Word) : Status :=
  { err     := st.err && !w.getLsbD 1
    errmult := st.errmult && !w.getLsbD 2
    unr     := st.unr && !w.getLsbD 3
    ovr     := st.ovr && !w.getLsbD 4
    clamp   := st.clamp && !w.getLsbD 5
    coll    := st.coll && !w.getLsbD 6
    errcode := if w.getLsbD 1 then 0 else st.errcode
    erropc  := if w.getLsbD 1 then 0 else st.erropc }

/-- `RECORD(code, w)` on STATUS (R532): the first error wins, a later one only sets ERRMULT. -/
def statusRecord (st : Status) (code : ErrorCode) (opc : Byte) : Status :=
  if st.err then { st with errmult := true }
  else { st with err := true, errcode := errorCodeByte code, erropc := opc }

/-- Set the sticky flags UNR and OVR when the delivery of an apply says so (40 R270). -/
def statusStream (st : Status) (unr ovr : Bool) : Status :=
  { st with unr := st.unr || unr, ovr := st.ovr || ovr }

/-- Set the sticky flag CLAMP when a factor was clamped (41 R352). -/
def statusClamp (st : Status) (clamped : Bool) : Status := { st with clamp := st.clamp || clamped }

/-- Set the sticky flag COLL (70_reset R592). -/
def statusCollide (st : Status) : Status := { st with coll := true }

end Sys2Proof.Machine
end

