-- ==== Sys2Proof/Machine/Memory.lean ====
section
/-! DEFINITION. Memory as a list of (byte offset, byte) cells in one canonical form, and the one operation that reads
a byte and the one that stores a run of bytes (spec 20_memory R156, R160). -/

namespace Sys2Proof.Machine

/-- The byte stored at offset `a`; an offset that is not listed has no stored value (log 6). -/
def Memory.lookup : List Host.Cell → Nat → Option Byte
  | [], _ => none
  | c :: rest, a => if c.1 = a then some c.2 else Memory.lookup rest a

/-- The canonical form: offsets strictly rise. An unlisted offset has no value, so no entry can equal what an unlisted
offset reads as. -/
def Memory.wf : List Host.Cell → Bool
  | [] => true
  | [_] => true
  | c :: c' :: rest => c.1 < c'.1 && Memory.wf (c' :: rest)

/-- A run of bytes at rising offsets from `a`. -/
def cellsOf : Nat → List Byte → List Host.Cell
  | _, [] => []
  | a, b :: bs => (a, b) :: cellsOf (a + 1) bs

/-- Store the bytes `bs` at the offsets `a`, `a + 1`, …, in one pass: what stood there goes, all else stays. -/
def Memory.store (m : List Host.Cell) (a : Nat) (bs : List Byte) : List Host.Cell :=
  m.filter (fun c => c.1 < a) ++ cellsOf a bs ++ m.filter (fun c => a + bs.length ≤ c.1)

/-- The four bytes of a word, byte `k` its bits `8k+7:8k` (R160: little-endian). -/
def bytesOfWord (w : Word) : List Byte :=
  [w.extractLsb' 0 8, w.extractLsb' 8 8, w.extractLsb' 16 8, w.extractLsb' 24 8]

/-- The word whose bytes are `b0` (bits 7:0) to `b3` (bits 31:24) (R160). -/
def wordOfBytes (b0 b1 b2 b3 : Byte) : Word := b3 ++ b2 ++ b1 ++ b0

/-- The two bytes of an SMP code, in the byte order of R160. -/
def bytesOfCode (c : Code) : List Byte := [c.extractLsb' 0 8, c.extractLsb' 8 8]

/-- The code whose bytes are `b0` (bits 7:0) and `b1` (bits 15:8). -/
def codeOfBytes (b0 b1 : Byte) : Code := b1 ++ b0

end Sys2Proof.Machine
end

