-- ==== Sys2Proof/Machine/Ops.lean ====
section
/-! DEFINITION. The named operations over registers and memory windows (spec 10_state, 20_memory), the error record
(60_exceptions R532) and the resets (70_reset R580 to R582). -/

namespace Sys2Proof.Machine

/-! ### Memory windows -/

/-- The windows held in memory (20_memory R151); KROM is constant and stands in `Params`. -/
inductive Window where
  | kmem
  | inp
  | out
  | dst
  | smp
deriving DecidableEq, Repr

/-- The byte offset of element 0 (R151). -/
def windowBase : Window → Nat
  | .kmem => 0x1000
  | .inp  => 0x4000
  | .out  => 0x8000
  | .dst  => 0xC000
  | .smp  => 0x10000

/-- The number of elements (R151). -/
def windowDepth (p : Params) : Window → Nat
  | .kmem => p.capKmax.toNat
  | .inp  => p.capIn.toNat
  | .out  => p.capOut.toNat
  | .dst  => p.capDst.toNat
  | .smp  => p.capSmp.toNat

/-- The byte offset of element `i` (R151). -/
def elemAddr (w : Window) (i : Nat) : Nat := windowBase w + 4 * i

/-- The byte at offset `a` as the block sees it: the stored one, or, where nothing was written since power-on, the
free byte of that power-on reset (70_reset R582, log 6). -/
def byteAt (s : State) (a : Nat) : Byte := (Memory.lookup s.mem a).getD (Config.powerOnByte s.epoch a)

/-- The word at byte offset `a` (R160). -/
def wordAt (s : State) (a : Nat) : Word := wordOfBytes (byteAt s a) (byteAt s (a + 1)) (byteAt s (a + 2)) (byteAt s (a + 3))

/-- The SMP code at byte offset `a` (R159). -/
def codeAt (s : State) (a : Nat) : Code := codeOfBytes (byteAt s a) (byteAt s (a + 1))

/-- `SMP[i]` as the `s16` code itself (R159); an index at or beyond the depth reads 0 (R158). -/
def smpCode (s : State) (i : Nat) : Code :=
  if i < windowDepth s.inst .smp then codeAt s (elemAddr .smp i) else 0

/-- A read of element `i` of a window: a word, and for SMP the sign-extended code (R159); an index at or beyond the
depth reads 0 (R158). -/
def readElem (s : State) (w : Window) (i : Nat) : Word :=
  match w with
  | .smp => (smpCode s i).signExtend 32
  | w => if i < windowDepth s.inst w then wordAt s (elemAddr w i) else 0

/-- Elements `i`, `i + 1`, … of a window, `count` of them. -/
def readBlock (s : State) (w : Window) (i count : Nat) : List Word :=
  (List.range count).map (fun k => readElem s w (i + k))

/-- The bytes of a run of words. -/
def bytesOfWords (ws : List Word) : List Byte := ws.flatMap bytesOfWord

/-- Write the words `ws` to the elements `i`, `i + 1`, … of a window of words; what would fall at or beyond the depth
is dropped (R158). -/
def writeBlock (s : State) (w : Window) (i : Nat) (ws : List Word) : State :=
  { s with mem := Memory.store s.mem (elemAddr w i) (bytesOfWords (ws.take (windowDepth s.inst w - i))) }

/-- A write of the word `v` to element `i` of a window; SMP stores `v[15:0]` (R159). -/
def writeElem (s : State) (w : Window) (i : Nat) (v : Word) : State :=
  match w with
  | .smp =>
    if i < windowDepth s.inst .smp then
      { s with mem := Memory.store s.mem (elemAddr .smp i) (bytesOfCode (v.extractLsb' 0 16)) }
    else s
  | w => writeBlock s w i [v]

/-- The taps of KROM_k (R153). -/
def kromTaps (p : Params) (k : Nat) : List Word :=
  match k with
  | 0 => p.ktab2.toList
  | 1 => p.ktab3.toList
  | _ => p.ktab4.toList

/-! ### The error record: the block's "taking an exception" -/

/-- The state before the command runs, with the error recorded (60_exceptions R532): the code and the low byte of the
command word. There is no vector, no saved pc and no mode change (R538). -/
def raiseError (code : ErrorCode) (opc : Byte) (s : State) : State :=
  { s with status := statusRecord s.status code opc }

/-- `raise Error(code)` in the command `i` (00_scope R18, R532). -/
def raiseIn (code : ErrorCode) (i : Instr) (s : State) : State := raiseError code (opcodeOf (encode i)) s

/-- The host's acknowledgement, a write of `w` to STATUS: the "return" from an error (R533, R538, 10_state R53). -/
def ackStatus (w : Word) (s : State) : State := { s with status := statusClear s.status w }

/-! ### Resets -/

/-- Every register to its reset value and the hidden stores empty; memory stays (10_state R96, 43 R501). -/
def resetRegisters (s : State) : State :=
  { s with status := Status.zero, arg := ⟨0, 0, 0, 0⟩, res := ⟨0, 0, 0, 0⟩, rse := Rse.zero, rrc := Rrc.atReset,
           env := Env.atReset }

/-- A clock cycle with `rst` asserted (70_reset R580 to R582): registers to their reset values, no command in flight
(log 17), every memory byte unspecified again, and a read on the bus returns 0. -/
def powerOnReset (s : State) : State :=
  { resetRegisters s with mem := [], pending := none, rdata := 0, epoch := s.epoch + 1 }

/-- `INVALIDATE_RRC()` (41 R356): BYPSEL, SEL and the factors stay. -/
def invalidateRrc (r : Rrc) : Rrc :=
  { r with valid := false, nblk := 0, min := 0, max := 0, nummin := 0, nummax := 0, cyc := 0, cur := 0 }

/-- The tear-down of an engine (40 R261, R264): the RSE registers and hidden stores cleared, the negotiation
invalidated, OUT as it was. -/
def tearDown (s : State) : State := { s with rse := Rse.zero, rrc := invalidateRrc s.rrc }

end Sys2Proof.Machine
end

