-- ==== Sys2Proof/Machine/Bus.lean ====
section
/-! DEFINITION. The host bus (spec 20_memory): the register map (10_state R90), address decode (R151, R156, R158, R163),
and the two transactions, with the BUSY hazard (70_reset R591, R592). -/

namespace Sys2Proof.Machine

/-- The registers of the map 10_state R90. -/
inductive Reg where
  | id | version | cmd | status
  | arg0 | arg1 | arg2 | arg3
  | res0 | res1 | res2 | res3
  | capKmax | capHist | capIn | capOut | capDst | capSmp
  | rseStat | rseU | rseD | rseN | rseKlen | rsePhl | rseH | rseInmax | rseOffmax | rseCarry | rseDph | rseOutcnt
  | rrcStat | rrcUpreq | rrcDownreq | rrcUpc | rrcDownc | rrcNblk | rrcMin | rrcMax | rrcNummin | rrcNummax | rrcCyc | rrcCur
  | envCtrl | envFs | envSlen | envState | envAtkP | envDecP | envRelP | envSusP | envFadeP
  | envNa | envNd | envNs | envNr | envNf | envSlvl | envL | envCursor | envBudget | envGain | envFact | envTgt
deriving DecidableEq, Repr

/-- The block registers of the map (R51 to R54). -/
def blockRegisters : List (Nat × Reg) :=
  [(0x000, .id), (0x004, .version), (0x008, .cmd), (0x00C, .status), (0x010, .arg0), (0x014, .arg1),
   (0x018, .arg2), (0x01C, .arg3), (0x020, .res0), (0x024, .res1), (0x028, .res2), (0x02C, .res3)]

/-- The capacity registers (R56). -/
def capRegisters : List (Nat × Reg) :=
  [(0x040, .capKmax), (0x044, .capHist), (0x048, .capIn), (0x04C, .capOut), (0x050, .capDst), (0x054, .capSmp)]

/-- The RSE registers (R60 to R65). -/
def rseRegisters : List (Nat × Reg) :=
  [(0x100, .rseStat), (0x104, .rseU), (0x108, .rseD), (0x10C, .rseN), (0x110, .rseKlen), (0x114, .rsePhl),
   (0x118, .rseH), (0x11C, .rseInmax), (0x120, .rseOffmax), (0x124, .rseCarry), (0x128, .rseDph), (0x12C, .rseOutcnt)]

/-- The RRC registers (R70 to R75). -/
def rrcRegisters : List (Nat × Reg) :=
  [(0x200, .rrcStat), (0x204, .rrcUpreq), (0x208, .rrcDownreq), (0x20C, .rrcUpc), (0x210, .rrcDownc), (0x214, .rrcNblk),
   (0x218, .rrcMin), (0x21C, .rrcMax), (0x220, .rrcNummin), (0x224, .rrcNummax), (0x228, .rrcCyc), (0x22C, .rrcCur)]

/-- The ENV registers (R80 to R86). -/
def envRegisters : List (Nat × Reg) :=
  [(0x300, .envCtrl), (0x304, .envFs), (0x308, .envSlen), (0x30C, .envState), (0x310, .envAtkP), (0x314, .envDecP),
   (0x318, .envRelP), (0x31C, .envSusP), (0x320, .envFadeP), (0x324, .envNa), (0x328, .envNd), (0x32C, .envNs),
   (0x330, .envNr), (0x334, .envNf), (0x338, .envSlvl), (0x33C, .envL), (0x340, .envCursor), (0x344, .envBudget),
   (0x348, .envGain), (0x34C, .envFact), (0x350, .envTgt)]

/-- The register map: each register at its byte offset (R90). -/
def registerMap : List (Nat × Reg) :=
  List.flatten [blockRegisters, capRegisters, rseRegisters, rrcRegisters, envRegisters]

/-- What a word-aligned byte offset names. -/
inductive Loc where
  | reg (r : Reg)
  | krom (k i : Nat)
  | elem (w : Window) (i : Nat)
  | unmapped
deriving DecidableEq, Repr

/-- Element `i` of a window where the index is below the depth, else an unmapped offset (20_memory R158). -/
def locElem (p : Params) (w : Window) (i : Nat) : Loc := if i < windowDepth p w then .elem w i else .unmapped

/-- Tap `i` of KROM_k where the table has one, else an unmapped offset (R153). -/
def locKrom (k i : Nat) : Loc := if i < 41 + 20 * k then .krom k i else .unmapped

/-- Address decode (R156, R163): `addr[1:0]` is ignored; then the range of the address map. -/
def locate (p : Params) (addr : Word) : Loc :=
  let a := 4 * (addr.toNat / 4)
  if a < 0x1000 then
    match registerMap.lookup a with
    | some r => .reg r
    | none => .unmapped
  else if a < 0x2000 then locElem p .kmem ((a - 0x1000) / 4)
  else if a < 0x2200 then locKrom 0 ((a - 0x2000) / 4)
  else if a < 0x2400 then locKrom 1 ((a - 0x2200) / 4)
  else if a < 0x2600 then locKrom 2 ((a - 0x2400) / 4)
  else if a < 0x4000 then .unmapped
  else if a < 0x8000 then locElem p .inp ((a - 0x4000) / 4)
  else if a < 0xC000 then locElem p .out ((a - 0x8000) / 4)
  else if a < 0x10000 then locElem p .dst ((a - 0xC000) / 4)
  else if a < 0x4010000 then locElem p .smp ((a - 0x10000) / 4)
  else .unmapped

/-- The code of RSE_STAT.MODE (10_state R60). -/
def modeCode : EngineMode → BitVec 2
  | .uninit => 0
  | .active => 1
  | .failed => 2

/-- The code of ENV_STATE (R83). -/
def phaseCode : EnvPhase → BitVec 3
  | .ready    => 0
  | .attack   => 1
  | .decay    => 2
  | .sustain  => 3
  | .release  => 4
  | .fadeout  => 5
  | .finished => 6

/-- The word a read of a register returns (R51 to R86). -/
def readReg (s : State) : Reg → Word
  | .id => 0x44535041
  | .version => 0x00000007
  | .cmd => 0
  | .status => statusWord s.pending.isSome s.status
  | .arg0 => s.arg.a0
  | .arg1 => s.arg.a1
  | .arg2 => s.arg.a2
  | .arg3 => s.arg.a3
  | .res0 => s.res.r0
  | .res1 => s.res.r1
  | .res2 => s.res.r2
  | .res3 => s.res.r3
  | .capKmax => s.inst.capKmax
  | .capHist => s.inst.capHist
  | .capIn => s.inst.capIn
  | .capOut => s.inst.capOut
  | .capDst => s.inst.capDst
  | .capSmp => s.inst.capSmp
  | .rseStat => (0 : BitVec 29) ++ BitVec.ofBool s.rse.byp ++ modeCode s.rse.mode
  | .rseU => s.rse.u
  | .rseD => s.rse.d
  | .rseN => s.rse.n
  | .rseKlen => s.rse.klen
  | .rsePhl => s.rse.phl
  | .rseH => s.rse.h
  | .rseInmax => s.rse.inmax
  | .rseOffmax => s.rse.offmax
  | .rseCarry => s.rse.carry
  | .rseDph => s.rse.dph
  | .rseOutcnt => s.rse.outcnt
  | .rrcStat => (0 : BitVec 28) ++ s.rrc.sel ++ BitVec.ofBool s.rrc.bypsel ++ BitVec.ofBool s.rrc.valid
  | .rrcUpreq => s.rrc.upreq
  | .rrcDownreq => s.rrc.downreq
  | .rrcUpc => s.rrc.upc
  | .rrcDownc => s.rrc.downc
  | .rrcNblk => s.rrc.nblk
  | .rrcMin => s.rrc.min
  | .rrcMax => s.rrc.max
  | .rrcNummin => s.rrc.nummin
  | .rrcNummax => s.rrc.nummax
  | .rrcCyc => s.rrc.cyc
  | .rrcCur => s.rrc.cur
  | .envCtrl => (0 : BitVec 29) ++ BitVec.ofBool s.env.dstv ++ BitVec.ofBool s.env.smpv ++ BitVec.ofBool s.env.append
  | .envFs => s.env.fs
  | .envSlen => s.env.slen
  | .envState => (0 : BitVec 29) ++ phaseCode s.env.phase
  | .envAtkP => s.env.atkP
  | .envDecP => s.env.decP
  | .envRelP => s.env.relP
  | .envSusP => s.env.susP
  | .envFadeP => s.env.fadeP
  | .envNa => s.env.na
  | .envNd => s.env.nd
  | .envNs => s.env.ns
  | .envNr => s.env.nr
  | .envNf => s.env.nf
  | .envSlvl => s.env.slvl
  | .envL => s.env.len
  | .envCursor => s.env.cursor
  | .envBudget => s.env.budget
  | .envGain => s.env.gain
  | .envFact => s.env.fact
  | .envTgt => s.env.tgt

/-- The word a read of a location returns; an unmapped one returns 0 (R158). -/
def readLoc (s : State) : Loc → Word
  | .reg r => readReg s r
  | .krom k i => (kromTaps s.inst k).getD i 0
  | .elem w i => readElem s w i
  | .unmapped => 0

/-- A latch of the word written to CMD, with `lat` cycles of BUSY (R52, 70_reset R590). -/
def acceptCommand (w : Word) (lat : Nat) (s : State) : State := { s with pending := some { word := w, left := lat } }

/-- A write of the word `v` to a register while BUSY is 0 (R52 to R54, R80 to R82); every other register is read-only
and ignores it (R90). `lat` is the LAT of a command that the write starts. -/
def writeReg (lat : Nat) (v : Word) (s : State) : Reg → State
  | .cmd => acceptCommand v lat s
  | .status => ackStatus v s
  | .arg0 => { s with arg := { s.arg with a0 := v } }
  | .arg1 => { s with arg := { s.arg with a1 := v } }
  | .arg2 => { s with arg := { s.arg with a2 := v } }
  | .arg3 => { s with arg := { s.arg with a3 := v } }
  | .envCtrl => { s with env := { s.env with append := v.getLsbD 0, smpv := v.getLsbD 1, dstv := v.getLsbD 2 } }
  | .envFs => { s with env := { s.env with fs := v } }
  | .envSlen => { s with env := { s.env with slen := if s.inst.capSmp < v then s.inst.capSmp else v } }
  | .id | .version | .res0 | .res1 | .res2 | .res3
  | .capKmax | .capHist | .capIn | .capOut | .capDst | .capSmp
  | .rseStat | .rseU | .rseD | .rseN | .rseKlen | .rsePhl | .rseH | .rseInmax | .rseOffmax | .rseCarry | .rseDph | .rseOutcnt
  | .rrcStat | .rrcUpreq | .rrcDownreq | .rrcUpc | .rrcDownc | .rrcNblk | .rrcMin | .rrcMax | .rrcNummin | .rrcNummax
  | .rrcCyc | .rrcCur
  | .envState | .envAtkP | .envDecP | .envRelP | .envSusP | .envFadeP
  | .envNa | .envNd | .envNs | .envNr | .envNf | .envSlvl | .envL | .envCursor | .envBudget | .envGain | .envFact | .envTgt => s

/-- A write to a location while BUSY is 0: KROM and OUT are read-only (R153, R155), an unmapped offset ignores it
(R158). -/
def writeLoc (lat : Nat) (v : Word) (s : State) : Loc → State
  | .reg r => writeReg lat v s r
  | .krom _ _ => s
  | .elem .out _ => s
  | .elem w i => writeElem s w i v
  | .unmapped => s

/-- The registers a host may read while BUSY is 1 (70_reset R591). -/
def readableWhileBusy : Loc → Bool
  | .reg .status | .reg .id | .reg .version => true
  | .reg .capKmax | .reg .capHist | .reg .capIn | .reg .capOut | .reg .capDst | .reg .capSmp => true
  | _ => false

/-- `MemRead(addr, 4)`: the word read goes to `rdata` and nothing else changes (20_memory R156, R162); while BUSY is 1
only some registers may be read (R591, log 9). -/
def busRead (addr : Word) (s : State) : Except Fault State :=
  let l := locate s.inst addr
  if s.pending.isSome && !readableWhileBusy l then .error (.busyRead addr)
  else .ok { s with rdata := readLoc s l }

/-- `MemWrite(addr, 4, v)` (R156); while BUSY is 1 it is dropped and sets COLL (70_reset R591, R592). DEDUCED, unsafe: so
does a write to an unmapped offset, against the words of R158 and 10_state R53 (log 23). -/
def busWrite (lat : Nat) (addr v : Word) (s : State) : State :=
  if s.pending.isSome then { s with status := statusCollide s.status }
  else writeLoc lat v s (locate s.inst addr)

/-- The host's transaction of one cycle. `lat` is the LAT of a command that it may start. -/
def busCycle (lat : Nat) (op : BusOp) (s : State) : Except Fault State :=
  match op with
  | .idle => .ok s
  | .read addr => busRead addr s
  | .write addr v => .ok (busWrite lat addr v s)

end Sys2Proof.Machine
end

