-- ==== Sys2Proof/Machine/BlockControl.lean ====
section
/-! DEFINITION. The block-control commands (spec 43_block_control). -/

namespace Sys2Proof.Machine

/-- NOP (R500): completes with no effect. -/
def execNop (s : State) : Host.Outcome State Fault Refusal := .next s

/-- SRST (R501): every register to its reset value, the hidden stores empty, the memory windows kept. -/
def execSrst (s : State) : Host.Outcome State Fault Refusal := .next (resetRegisters s)

end Sys2Proof.Machine
end

