-- ==== Sys2Proof/Machine/Float.lean ====
section
/-! DEFINITION. Binary32 arithmetic (spec 00_scope R15, reading of 93 item I-IEEE): every operation computes its exact
result on integers and narrows it ONCE, to nearest with ties to even; subnormals are kept; no operation is fused. A
NaN result is a free draw (93 item I-NAN, log 8): an operation takes the number `d` of the draw it would use. -/

namespace Sys2Proof.Machine

/-- The sign bit. -/
def F32.sign (w : Word) : Bool := w.getLsbD 31

/-- The biased exponent, bits 30:23. -/
def F32.expo (w : Word) : Nat := (w.extractLsb' 23 8).toNat

/-- The fraction, bits 22:0. -/
def F32.frac (w : Word) : Nat := (w.extractLsb' 0 23).toNat

/-- Exponent all ones, fraction not zero. -/
def F32.isNaN (w : Word) : Bool := F32.expo w == 255 && F32.frac w != 0

/-- Exponent all ones, fraction zero. -/
def F32.isInf (w : Word) : Bool := F32.expo w == 255 && F32.frac w == 0

/-- Neither a NaN nor an infinity. -/
def F32.isFinite (w : Word) : Bool := F32.expo w != 255

/-- `2^149`: a finite datum is a whole number of units of `2^-149`. -/
def F32.unit : Nat := 2 ^ 149

/-- The magnitude of a finite datum in units of `2^-149`, exactly. -/
def F32.mag (w : Word) : Nat :=
  if F32.expo w = 0 then F32.frac w else (2 ^ 23 + F32.frac w) * 2 ^ (F32.expo w - 1)

/-- The signed exact value of a finite datum in units of `2^-149`. -/
def F32.signedMag (w : Word) : Int := if F32.sign w then -(F32.mag w : Int) else (F32.mag w : Int)

/-- The exact real value of a finite datum. -/
def F32.value (w : Word) : ℚ := (F32.signedMag w : ℚ) / (F32.unit : ℚ)

/-- Bits 30:0 of the binary32 datum nearest to `num / den`, ties to even; a magnitude too large gives infinity. With
`2^sh` units of `2^-149` as the weight of the last fraction bit, the mantissa `m` is `num / den` in that weight. -/
def F32.roundMag (num den : Nat) : Nat :=
  let scaled := num * F32.unit
  let sh := Nat.log2 (scaled / den) - 23
  let weight := den * 2 ^ sh
  let m := scaled / weight
  let r := scaled % weight
  let m' := if weight < 2 * r ∨ (2 * r = weight ∧ m % 2 = 1) then m + 1 else m
  Nat.min (sh * 2 ^ 23 + m') 0x7F800000

/-- A datum from its sign and its bits 30:0. -/
def F32.pack (neg : Bool) (bits : Nat) : Word := BitVec.ofBool neg ++ BitVec.ofNat 31 bits

/-- The NaN of draw `d`: free sign, free non-zero fraction (I-NAN). -/
@[irreducible] def F32.nan (d : Nat) : Word :=
  F32.pack (Config.nanSign d)
    (0x7F800000 + (if Config.nanFraction d = 0 then 1 else (Config.nanFraction d).toNat))

/-- The sum of R15 where it is no NaN. An exact zero sum is +0.0, but for two negative zeros. -/
def F32.addNum (a b : Word) : Option Word :=
  if F32.isNaN a || F32.isNaN b then none
  else if F32.isInf a then
    if F32.isInf b && (F32.sign a != F32.sign b) then none else some a
  else if F32.isInf b then some b
  else
    let x := F32.signedMag a + F32.signedMag b
    if x = 0 then some (F32.pack (F32.sign a && F32.sign b) 0)
    else some (F32.pack (decide (x < 0)) (F32.roundMag x.natAbs F32.unit))

/-- The product of R15 where it is no NaN. -/
def F32.mulNum (a b : Word) : Option Word :=
  let s := F32.sign a != F32.sign b
  if F32.isNaN a || F32.isNaN b then none
  else if F32.isInf a || F32.isInf b then
    if (F32.isFinite a && F32.mag a == 0) || (F32.isFinite b && F32.mag b == 0) then none
    else some (F32.pack s 0x7F800000)
  else some (F32.pack s (F32.roundMag (F32.mag a * F32.mag b) (F32.unit * F32.unit)))

/-- The quotient of R15 where it is no NaN. -/
def F32.divNum (a b : Word) : Option Word :=
  let s := F32.sign a != F32.sign b
  if F32.isNaN a || F32.isNaN b then none
  else if F32.isInf a then
    if F32.isInf b then none else some (F32.pack s 0x7F800000)
  else if F32.isInf b then some (F32.pack s 0)
  else if F32.mag b = 0 then
    if F32.mag a = 0 then none else some (F32.pack s 0x7F800000)
  else some (F32.pack s (F32.roundMag (F32.mag a) (F32.mag b)))

/-- `f32_add` (R15); a NaN result is draw `d`. -/
def F32.add (d : Nat) (a b : Word) : Word := (F32.addNum a b).getD (F32.nan d)

/-- The same magnitude with the other sign. -/
def F32.neg (w : Word) : Word := w ^^^ 0x80000000

/-- `f32_sub` (R15); a NaN result is draw `d`. -/
def F32.sub (d : Nat) (a b : Word) : Word := F32.add d a (F32.neg b)

/-- `f32_mul` (R15); a NaN result is draw `d`. -/
def F32.mul (d : Nat) (a b : Word) : Word := (F32.mulNum a b).getD (F32.nan d)

/-- `f32_div` (R15); a NaN result is draw `d`. -/
def F32.div (d : Nat) (a b : Word) : Word := (F32.divNum a b).getD (F32.nan d)

/-- `f32_of_int` (R15). -/
def F32.ofInt (n : Int) : Word := F32.pack (decide (n < 0)) (F32.roundMag n.natAbs 1)

/-- `f32_eq` (R15): +0.0 equals -0.0, and a NaN equals nothing. -/
def F32.eq (a b : Word) : Bool :=
  !F32.isNaN a && !F32.isNaN b && (a == b || (F32.isFinite a && F32.isFinite b && F32.mag a == 0 && F32.mag b == 0))

/-- 1.0, the pattern 0x3F800000. -/
def F32.one : Word := 0x3F800000

/-- +0.0. -/
def F32.zero : Word := 0x00000000

end Sys2Proof.Machine
end

