-- ==== Sys2Proof/Machine/Operands.lean ====
section
/-! DEFINITION. Operand and result forms (spec 30_encoding R204, R205), and the integer procedures the commands share
(00_scope R14, 40 R250, R251, R258, R259, 41 R352, R354, 42 R402, R410, R423). -/

namespace Sys2Proof.Machine

/-- A `u32` operand: the word read as unsigned (R204). -/
def operandU32 (w : Word) : Nat := w.toNat

/-- An `s32` operand: the word read as two's complement (R204). -/
def operandS32 (w : Word) : Int := w.toInt

/-- An integer result, written whole as a `u32` (R205). -/
def resultU32 (n : Nat) : Word := BitVec.ofNat 32 n

/-- A Boolean result: 0 or 1 (R205). -/
def resultBool (b : Bool) : Word := if b then 1 else 0

/-- `ceil_div(a, b)` for `b > 0` (00_scope R14). -/
def ceilDiv (a b : Nat) : Nat := (a + b - 1) / b

/-- `REDUCE(up, down)` (40 R251): factors of 0 become 1, then both are divided by their GCD (R250). -/
def reduce (up down : Nat) : Nat × Nat :=
  let u0 := Nat.max up 1
  let d0 := Nat.max down 1
  let g := Nat.gcd u0 d0
  (u0 / g, d0 / g)

/-- The BlockLengthNegotiation (40 R258). -/
structure Negotiation where
  min    : Nat
  max    : Nat
  nummin : Nat
  nummax : Nat
  cyc    : Nat
deriving DecidableEq, Repr

/-- `NEG(M, U, D)` (40 R258). -/
def negotiate (m u d : Nat) : Negotiation :=
  let q := m * d
  let f := q / u
  let r := q % u
  if r = 0 then { min := f, max := f, nummin := 1, nummax := 0, cyc := 1 }
  else
    let g := Nat.gcd r u
    { min := f, max := f + 1, nummin := u / g - r / g, nummax := r / g, cyc := u / g }

/-- `LENOUT(I, U, D)` (40 R259). -/
def lenOut (i u d : Nat) : Nat := ceilDiv (u * i) d

/-- `SEQ(k)` for block length `n` at ratio `u : d` (41 R354). -/
def seqLen (n u d k : Nat) : Nat := ceilDiv ((k + 1) * n * d) u - ceilDiv (k * n * d) u

/-- `clamp(x, 1, 4)` on signed integers (41 R352). -/
def clampFactor (x : Int) : Nat := (Min.min (Max.max x 1) 4).toNat

/-- `CLAMP_FACTORS` changes at least one factor (41 R352). -/
def factorsClamped (up down : Int) : Bool :=
  decide ((clampFactor up : Int) ≠ up) || decide ((clampFactor down : Int) ≠ down)

/-- `SEC2SMP(x)` at the rate `fs` (42 R402): the exact product rounded down, 0 for a non-positive or NaN duration, at
most `2^31 - 1`, which +infinity gives. At rate 0 every duration is 0 samples (70_reset R583), an infinite one too
(log 12). -/
def secToSamples (x fs : Word) : Nat :=
  if F32.isNaN x || F32.sign x then 0
  else if fs = 0 then 0
  else if F32.isInf x then 2 ^ 31 - 1
  else Nat.min (F32.mag x * fs.toNat / F32.unit) (2 ^ 31 - 1)

/-- `CONV(c)` (42 R423). Its operands are finite and its divisor is not zero, so no NaN can result. -/
def convCode (c : Code) : Word :=
  if c.toInt < 0 then F32.div 0 (F32.ofInt c.toInt) (F32.ofInt 32768)
  else F32.div 0 (F32.ofInt c.toInt) (F32.ofInt 32767)

/-- Fixed-point bits of the bounds of `powBounds`. -/
def powBits : Nat := 256

/-- Bounds, in units of `2^-256`, of the `k`-th power of `c / 2^256` for `c ≤ 2^256`: the first is at most the power
and the second at least. -/
def powBounds (c : Nat) : Nat → Nat → Nat × Nat
  | 0, _ => (0, 2 ^ powBits)
  | fuel + 1, k =>
    if k = 0 then (2 ^ powBits, 2 ^ powBits)
    else
      let h := powBounds c fuel (k / 2)
      let lo := h.1 * h.1 / 2 ^ powBits
      let hi := h.2 * h.2 / 2 ^ powBits + 1
      if k % 2 = 0 then (lo, hi) else (lo * c / 2 ^ powBits, hi * c / 2 ^ powBits + 1)

/-- Whether `num / 2^28` is below `0.01^(1/k)`, that is `100 * num^k < 2^(28 k)`, exactly. The bounds of the power
settle it without forming the power in all but a tie too close for them. -/
def belowRoot (k num : Nat) : Bool :=
  let b := powBounds (num * 2 ^ 228) 40 k
  if 100 * b.2 < 2 ^ powBits then true
  else if 2 ^ powBits < 100 * b.1 then false
  else decide (100 * num ^ k < 2 ^ (28 * k))

/-- The midpoint, in units of `2^-28`, between the binary32 data of the patterns `b` and `b + 1`, both in [1/16, 1]. -/
def midpoint28 (b : Nat) : Nat :=
  (F32.mag (BitVec.ofNat 32 b) + F32.mag (BitVec.ofNat 32 (b + 1))) / 2 ^ 122

/-- The least pattern in `[lo, hi]` whose midpoint with the next is not below `0.01^(1/k)`, by bisection. -/
def rootSearch (k : Nat) : Nat → Nat → Nat → Nat
  | 0, lo, _ => lo
  | fuel + 1, lo, hi =>
    if lo < hi then
      let mid := (lo + hi) / 2
      if belowRoot k (midpoint28 mid) then rootSearch k fuel (mid + 1) hi else rootSearch k fuel lo mid
    else lo

/-- `FACTOR(n)` (42 R410): `exp(ln(0.01)/(n+1))`, which is `0.01^(1/(n+1))`, correctly rounded to binary32; +0.0 for
`n = 0`. The value lies between 0.1 and 1.0, so the search runs over the patterns from just below 0.1 to 1.0 (log 11). -/
def envFactor (n : Nat) : Word :=
  if n = 0 then F32.zero else BitVec.ofNat 32 (rootSearch (n + 1) 25 0x3DCCCCCC 0x3F800000)

end Sys2Proof.Machine
end

