-- ==== Sys2Proof/Machine/Resample.lean ====
section
/-! DEFINITION. The RSE unit (spec 40_resample_engine): its shared procedures and the meanings of its seven commands. -/

namespace Sys2Proof.Machine

/-! ### Procedures -/

/-- `IDENT(klen)` (R252): the kernel in KMEM is empty, or the single tap 1.0. -/
def identKernel (s : State) (klen : Nat) : Bool :=
  klen == 0 || (klen == 1 && F32.eq (readElem s .kmem 0) F32.one)

/-- `fail_init()` but for the record of the error (R262): FAILED, all else as the tear-down left it. -/
def failEngine (s : State) : State := { tearDown s with rse := { Rse.zero with mode := .failed } }

/-- The end of a successful initialisation (R261): the registers, the latched kernel, a history of +0.0, no carry,
and every element of OUT at +0.0. -/
def configureEngine (s : State) (byp : Bool) (u d n klen phl h inmax offmax : Nat) : State :=
  { writeBlock (tearDown s) .out 0 (List.replicate s.inst.capOut.toNat F32.zero) with
    rse := { mode := .active, byp := byp, u := resultU32 u, d := resultU32 d, n := resultU32 n,
             klen := resultU32 klen, phl := resultU32 phl, h := resultU32 h,
             inmax := resultU32 inmax, offmax := resultU32 offmax, carry := 0, dph := 0, outcnt := 0,
             kl := readBlock s .kmem 0 klen, hist := List.replicate h F32.zero, carrybuf := [] } }

/-- `ENGINE_INIT(up, down, n, klen)` (R261): the engine configured, or, where a capacity is exceeded, the state of
`fail_init()`; the caller records EINITCAP. -/
def engineInit (up down n klen : Nat) (s : State) : Except State State :=
  let u := (reduce up down).1
  let d := (reduce up down).2
  if s.inst.capKmax.toNat < klen then .error (failEngine s)
  else if u = 1 ∧ d = 1 ∧ identKernel s klen = true then
    if s.inst.capIn.toNat < n ∨ s.inst.capOut.toNat < n then .error (failEngine s)
    else .ok (configureEngine s true u d n klen 0 0 n 0)
  else
    let phl := ceilDiv klen u
    let h := phl * u - 1
    let inmax := ceilDiv (n * d) u
    let offmax := ceilDiv u d
    if s.inst.capHist.toNat < h ∨ s.inst.capIn.toNat < inmax ∨ s.inst.capOut.toNat < n + offmax then
      .error (failEngine s)
    else .ok (configureEngine s false u d n klen phl h inmax offmax)

/-- `tap(p, t)` (R253): the interleaved tap, +0.0 beyond the kernel. -/
def phaseTap (r : Rse) (p t : Nat) : Word :=
  if p + r.u.toNat * t < r.klen.toNat then r.kl.getD (p + r.u.toNat * t) F32.zero else F32.zero

/-- `FIRPOS(S, m, p)` (R254), newest sample first; `base` numbers its free NaN draws, two for each tap. -/
def firPos (base : Nat) (r : Rse) (staged : List Word) (m p : Nat) : Word :=
  (List.range r.phl.toNat).foldl
    (fun acc t =>
      F32.add (base + 2 * t + 1) acc
        (F32.mul (base + 2 * t) (phaseTap r p t) (staged.getD (r.h.toNat + m - t) F32.zero)))
    F32.zero

/-- `KEEP(j)` (R255). -/
def keepPos (r : Rse) (j : Nat) : Bool := r.dph.toNat ≤ j && (j - r.dph.toNat) % r.d.toNat == 0

/-- `KCOUNT(numIn)` (R255). -/
def keptCount (r : Rse) (numIn : Nat) : Nat :=
  if r.dph.toNat < r.u.toNat * numIn then ceilDiv (r.u.toNat * numIn - r.dph.toNat) r.d.toNat else 0

/-- The list `P` of R267 for one chunk: the filtered values at the positions that decimation keeps, in order. The kept
positions of R255 are `DPH`, `DPH + D`, …; the loop of R267 tests every position and keeps these (log 13). -/
def keptOutputs (base : Nat) (r : Rse) (chunk : List Word) : List Word :=
  (List.range (keptCount r chunk.length)).map (fun i =>
    let j := r.dph.toNat + r.d.toNat * i
    firPos (base + 2 * r.phl.toNat * i) r (r.hist ++ chunk) (j / r.u.toNat) (j % r.u.toNat))

/-- What R270 delivers: the block `OUT[0..N)`, the new CARRYBUF, and whether UNR or OVR is set. -/
structure Delivery where
  block : List Word
  carry : List Word
  unr   : Bool
  ovr   : Bool
deriving DecidableEq, Repr

/-- R270: deliver N samples of `AV = CARRYBUF ++ P`; carry the oldest of the rest, or fill an underrun with +0.0. -/
def deliver (n offmax : Nat) (av : List Word) : Delivery :=
  if n ≤ av.length then
    { block := av.take n, carry := (av.drop n).take offmax, unr := false, ovr := decide (offmax < (av.drop n).length) }
  else
    { block := av ++ List.replicate (n - av.length) F32.zero, carry := [], unr := true, ovr := false }

/-- `(DPH - U*numIn) mod D` (R256). -/
def nextPhase (dph u numIn d : Nat) : Nat := (((dph : Int) - u * numIn) % (d : Int)).toNat

/-- `last(S, H)` (R257, 00_scope R16). -/
def lastN (h : Nat) (xs : List Word) : List Word := xs.drop (xs.length - h)

/-- The engine after an apply that computed `P` from `chunk` (R270, R271). -/
def applyEngine (r : Rse) (chunk p : List Word) : Rse :=
  let dl := deliver r.n.toNat r.offmax.toNat (r.carrybuf ++ p)
  { r with carrybuf := dl.carry, carry := resultU32 dl.carry.length, outcnt := r.n,
           dph := resultU32 (nextPhase r.dph.toNat r.u.toNat chunk.length r.d.toNat),
           hist := lastN r.h.toNat (r.hist ++ chunk) }

/-- `APPLY_FILTER(numIn)` (R267, R270, R271). -/
def applyFilter (numIn : Nat) (s : State) : State :=
  let r := s.rse
  let chunk := readBlock s .inp 0 numIn
  let p := keptOutputs s.draws r chunk
  let dl := deliver r.n.toNat r.offmax.toNat (r.carrybuf ++ p)
  { writeBlock s .out 0 dl.block with
    rse := applyEngine r chunk p
    status := statusStream s.status dl.unr dl.ovr
    draws := s.draws + 2 * r.phl.toNat * keptCount r numIn }

/-- `APPLY_BYPASS(numIn)` (R266): a bit-exact copy. -/
def applyBypass (numIn : Nat) (s : State) : State :=
  { writeBlock s .out 0 (readBlock s .inp 0 numIn) with rse := { s.rse with outcnt := resultU32 numIn } }

/-! ### Meanings -/

/-- RSE_INIT (R260). -/
def execRseInit (s : State) : Host.Outcome State Fault Refusal :=
  match engineInit (operandU32 s.arg.a0) (operandU32 s.arg.a1) (operandU32 s.arg.a2) (operandU32 s.arg.a3) s with
  | .ok t => .next t
  | .error t => .next (raiseIn .einitcap .rseInit t)

/-- RSE_DEINIT (R264): completes in every MODE. -/
def execRseDeinit (s : State) : Host.Outcome State Fault Refusal := .next (tearDown s)

/-- RSE_APPLY (R265): ENOTINIT, then EINLEN, then the apply of the engine's mode. -/
def execRseApply (s : State) : Host.Outcome State Fault Refusal :=
  if s.rse.mode ≠ .active then .next (raiseIn .enotinit .rseApply s)
  else if s.rse.inmax.toNat < operandU32 s.arg.a0 then .next (raiseIn .einlen .rseApply s)
  else if s.rse.byp then .next (applyBypass (operandU32 s.arg.a0) s)
  else .next (applyFilter (operandU32 s.arg.a0) s)

/-- RSE_LENIN (R275): ENOTINIT, then ERANGE, then the negotiation in RES0 to RES3. -/
def execRseLenin (s : State) : Host.Outcome State Fault Refusal :=
  let g := negotiate (operandU32 s.arg.a0) s.rse.u.toNat s.rse.d.toNat
  if s.rse.mode ≠ .active then .next (raiseIn .enotinit .rseLenin s)
  else if 2 ^ 32 ≤ g.max then .next (raiseIn .erange .rseLenin s)
  else .next { s with res := ⟨resultU32 g.min, resultU32 g.max, resultU32 g.nummin, resultU32 g.nummax⟩ }

/-- RSE_LENOUT (R277): ENOTINIT, then ERANGE, then the length in RES0. -/
def execRseLenout (s : State) : Host.Outcome State Fault Refusal :=
  let o := lenOut (operandU32 s.arg.a0) s.rse.u.toNat s.rse.d.toNat
  if s.rse.mode ≠ .active then .next (raiseIn .enotinit .rseLenout s)
  else if 2 ^ 32 ≤ o then .next (raiseIn .erange .rseLenout s)
  else .next { s with res := { s.res with r0 := resultU32 o } }

/-- RSE_ISBYP (R279). -/
def execRseIsbyp (s : State) : Host.Outcome State Fault Refusal :=
  .next { s with res := { s.res with r0 := resultBool s.rse.byp } }

/-- RSE_GCD (R281): only the result of R250 is normative. -/
def execRseGcd (s : State) : Host.Outcome State Fault Refusal :=
  .next { s with res := { s.res with r0 := resultU32 (Nat.gcd (operandU32 s.arg.a0) (operandU32 s.arg.a1)) } }

end Sys2Proof.Machine
end

