-- ==== Sys2Proof/Machine/RateControl.lean ====
section
/-! DEFINITION. The RRC unit (spec 41_rate_controller): its procedures and the meanings of its two commands. -/

namespace Sys2Proof.Machine

/-! ### Procedures -/

/-- The kernel that `RRC_SETUP` writes to KMEM for the clamped factors (R351, R358): the unit tap for 1:1, else the
table `max(uc, dc) - 2` scaled by `uc`. `base` numbers the free NaN draws, one for each tap. -/
def selectedKernel (p : Params) (base uc dc : Nat) : List Word :=
  if Nat.max uc dc ≤ 1 then [F32.one]
  else (kromTaps p (Nat.max uc dc - 2)).mapIdx (fun i tap => F32.mul (base + i) tap (F32.ofInt uc))

/-- The writes of `RRC_SETUP` that stand whatever the initialisation does (R351): the raw request, the clamped factors,
the sticky CLAMP, the kernel choice and KMEM. -/
def rrcPrepare (upW downW : Word) (s : State) : State :=
  let up := operandS32 upW
  let down := operandS32 downW
  let uc := clampFactor up
  let dc := clampFactor down
  let bypass := decide (Nat.max uc dc ≤ 1)
  let taps := selectedKernel s.inst s.draws uc dc
  { writeBlock s .kmem 0 taps with
    status := statusClamp s.status (factorsClamped up down)
    rrc := { s.rrc with upreq := upW, downreq := downW, upc := resultU32 uc, downc := resultU32 dc,
                        bypsel := bypass, sel := if bypass then 0 else BitVec.ofNat 2 (Nat.max uc dc - 2) }
    draws := s.draws + taps.length }

/-- The negotiation registers after a successful `RRC_SETUP` for block length `n` (R351, R353). -/
def rrcNegotiated (n : Nat) (r : Rrc) (e : Rse) : Rrc :=
  let g := negotiate n e.u.toNat e.d.toNat
  { r with valid := true, nblk := resultU32 n, min := resultU32 g.min, max := resultU32 g.max,
           nummin := resultU32 g.nummin, nummax := resultU32 g.nummax, cyc := resultU32 g.cyc, cur := 0 }

/-- `RRC_SETUP(up, down, n)` (R351): configured, or the state of the failed initialisation; the caller records
EINITCAP. -/
def rrcSetup (upW downW : Word) (n : Nat) (s : State) : Except State State :=
  let s1 := rrcPrepare upW downW s
  let uc := clampFactor (operandS32 upW)
  let dc := clampFactor (operandS32 downW)
  match engineInit uc dc n (selectedKernel s.inst s.draws uc dc).length s1 with
  | .error t => .error t
  | .ok t => .ok { t with rrc := rrcNegotiated n t.rrc t.rse }

/-- The length `SEQ(RRC_CUR)` due next at the engine's ratio (R354). -/
def rrcDue (s : State) : Nat := seqLen s.rrc.nblk.toNat s.rse.u.toNat s.rse.d.toNat s.rrc.cur.toNat

/-- The cursor's move in `RRC_ADVANCE()` (R360). -/
def rrcAdvance (s : State) : State :=
  { s with rrc := { s.rrc with cur := resultU32 ((s.rrc.cur.toNat + 1) % s.rrc.cyc.toNat) } }

/-! ### Meanings -/

/-- RRC_CONFIG (R350). -/
def execRrcConfig (s : State) : Host.Outcome State Fault Refusal :=
  match rrcSetup s.arg.a0 s.arg.a1 (operandU32 s.arg.a2) s with
  | .ok t => .next t
  | .error t => .next (raiseIn .einitcap .rrcConfig t)

/-- RRC_NEXT (R360): ENOTCFG, else the due length in RES0 and the cursor moved. -/
def execRrcNext (s : State) : Host.Outcome State Fault Refusal :=
  if s.rrc.valid = false then .next (raiseIn .enotcfg .rrcNext s)
  else .next { rrcAdvance s with res := { s.res with r0 := resultU32 (rrcDue s) } }

end Sys2Proof.Machine
end

