-- ==== Sys2Proof/Machine/Envelope.lean ====
section
/-! DEFINITION. The ENV unit (spec 42_envelope): its procedures and the meanings of its six commands. -/

namespace Sys2Proof.Machine

/-! ### Procedures -/

/-- `BUD(P)` (R411). -/
def phaseBudget (e : Env) : EnvPhase → Word
  | .attack  => e.na
  | .decay   => e.nd
  | .sustain => e.ns
  | .release => e.nr
  | .fadeout => e.nf
  | .ready | .finished => 0

/-- `TGT(P)` (R411). -/
def phaseTarget (e : Env) : EnvPhase → Word
  | .attack  => F32.one
  | .decay   => e.slvl
  | .sustain => e.slvl
  | .release => F32.zero
  | .fadeout => F32.zero
  | .ready | .finished => F32.zero

/-- The phases after `P` in the fixed order of R411, up to Finished. -/
def phasesAfter : EnvPhase → List EnvPhase
  | .ready   => [.attack, .decay, .sustain, .release, .fadeout]
  | .attack  => [.decay, .sustain, .release, .fadeout]
  | .decay   => [.sustain, .release, .fadeout]
  | .sustain => [.release, .fadeout]
  | .release => [.fadeout]
  | .fadeout => []
  | .finished => []

/-- `ENTER(P)` (R421). -/
def envEnter (p : EnvPhase) (e : Env) : Env :=
  { e with phase := p, budget := phaseBudget e p, tgt := phaseTarget e p, fact := envFactor (phaseBudget e p).toNat }

/-- `ENV_FINISH()` (R421): gain, factor and target stay. -/
def envFinish (e : Env) : Env := { e with phase := .finished, budget := 0 }

/-- The loop of `ADVANCE` (R421) over the phases still to come: a phase without a budget jumps the gain to its target. -/
def advanceThrough : List EnvPhase → Env → Env
  | [], e => envFinish e
  | p :: rest, e =>
    if phaseBudget e p = 0 then advanceThrough rest { e with gain := phaseTarget e p } else envEnter p e

/-- `ADVANCE(from)` (R421). -/
def envAdvance (e : Env) : Env := advanceThrough (phasesAfter e.phase) e

/-- `LATCH()` (R403). -/
def envLatch (e : Env) : Env :=
  let na := secToSamples e.atkP e.fs
  let nd := secToSamples e.decP e.fs
  let nr := secToSamples e.relP e.fs
  { e with na := resultU32 na, nd := resultU32 nd, nr := resultU32 nr, nf := resultU32 (secToSamples e.fadeP e.fs),
           slvl := e.susP, len := e.slen, ns := resultU32 (e.slen.toNat - na - nd - nr) }

/-- The gain recursion of R422, each operation rounded once, in the order written; `base` numbers its free NaN draws. -/
def gainStep (base : Nat) (e : Env) : Word :=
  F32.add (base + 3) (F32.mul base e.fact e.gain) (F32.mul (base + 2) (F32.sub (base + 1) F32.one e.fact) e.tgt)

/-- The envelope after it gave one sample with the gain `g` (R422): the cursor and the budget move, and a transition
happens at once. -/
def envStepped (e : Env) (g : Word) : Env :=
  let e1 := { e with gain := g, cursor := e.cursor + 1, budget := e.budget - 1 }
  if e1.len ≤ e1.cursor then envFinish e1
  else if e1.budget = 0 then envAdvance e1
  else e1

/-- The envelope that the next sample is taken in: Ready has no duration, so it is left at once (R422). -/
def envPlaying (e : Env) : Env := if e.phase = .ready then envAdvance e else e

/-- The sample of R422 in a playing envelope, and the state after it: the code at the cursor, scaled by the new gain. -/
def envEmit (e : Env) (s : State) : Word × State :=
  let g := gainStep s.draws e
  (F32.mul (s.draws + 4) (convCode (smpCode s e.cursor.toNat)) g,
    { s with env := envStepped e g, draws := s.draws + 5 })

/-- `ENV_SAMPLE()` (R422): the sample, or none when none is left, and the state after it. -/
def envSample (s : State) : Option Word × State :=
  if s.env.phase = .finished then (none, s)
  else if s.env.len ≤ s.env.cursor then (none, { s with env := envFinish s.env })
  else
    let e := envPlaying s.env
    if e.phase = .finished then (none, { s with env := e })
    else (some (envEmit e s).1, (envEmit e s).2)

/-- Up to `n` samples, stopping at the first None (R442), and the state after them. A further `ENV_SAMPLE()` after a
None gives None again and changes nothing (R450), so the loop of R443 has the same samples. -/
def envSamples : Nat → State → List Word × State
  | 0, s => ([], s)
  | n + 1, s =>
    match envSample s with
    | (none, t) => ([], t)
    | (some x, t) =>
      match envSamples n t with
      | (xs, u) => (x :: xs, u)

/-- Elements `DST[0..)` after `WRITE` of the samples (R444): each added to what stood there, or in its place. `base`
numbers the free NaN draws of the additions. -/
def mixSamples (append : Bool) (base : Nat) (old new : List Word) : List Word :=
  if append then (old.zip new).mapIdx (fun i q => F32.add (base + i) q.1 q.2) else new

/-- Write samples to `DST[0..len)` as R444 says. -/
def writeSamples (xs : List Word) (s : State) : State :=
  { writeBlock s .dst 0 (mixSamples s.env.append s.draws (readBlock s .dst 0 xs.length) xs) with
    draws := s.draws + xs.length }

/-- `PLAY_DIRECT(N)` (R442). -/
def playDirect (n : Nat) (s : State) : State :=
  let r := envSamples n s
  writeSamples r.1 r.2

/-- `PLAY_RESAMPLE(N)` (R443): the due number of source samples into IN, +0.0 after the note's end, then the filter,
then OUT into DST. -/
def playResample (n : Nat) (s : State) : State :=
  let numIn := rrcDue s
  let r := envSamples numIn (rrcAdvance s)
  let t := applyFilter numIn (writeBlock r.2 .inp 0 (r.1 ++ List.replicate (numIn - r.1.length) F32.zero))
  writeSamples (readBlock t .out 0 n) t

/-- The path of the engine as it stands (R441, last lines). -/
def playPath (n : Nat) (s : State) : State := if s.rse.byp then playDirect n s else playResample n s

/-! ### Meanings -/

/-- ENV_ON (R400). -/
def execEnvOn (s : State) : Host.Outcome State Fault Refusal :=
  .next { s with env := { envLatch s.env with cursor := 0, phase := .ready, budget := 0,
                                              gain := F32.zero, fact := F32.zero, tgt := F32.zero } }

/-- ENV_OFF (R405): no effect in Fadeout and Finished. -/
def execEnvOff (s : State) : Host.Outcome State Fault Refusal :=
  match s.env.phase with
  | .ready | .attack | .decay | .sustain | .release =>
    .next { s with env := if s.env.nf = 0 then envFinish s.env else envEnter .fadeout s.env }
  | .fadeout | .finished => .next s

/-- ENV_SETADSR (R407): no value is checked. -/
def execEnvSetadsr (s : State) : Host.Outcome State Fault Refusal :=
  .next { s with env := { s.env with atkP := s.arg.a0, decP := s.arg.a1, relP := s.arg.a2, susP := s.arg.a3 } }

/-- ENV_SETFADE (R409). -/
def execEnvSetfade (s : State) : Host.Outcome State Fault Refusal :=
  .next { s with env := { s.env with fadeP := s.arg.a0 } }

/-- ENV_PLAY (R440, R441): EDSTLEN, the null checks, the Finished check, a reconfiguration where one is due, the path. -/
def execEnvPlay (s : State) : Host.Outcome State Fault Refusal :=
  let n := operandU32 s.arg.a0
  if s.inst.capDst.toNat < n then .next (raiseIn .edstlen .envPlay s)
  else if s.env.smpv = false ∨ s.env.dstv = false then .next { s with env := envFinish s.env }
  else if s.env.phase = .finished then .next s
  else if s.rrc.valid = false ∨ s.rrc.nblk ≠ s.arg.a0 then
    match rrcSetup s.rrc.upreq s.rrc.downreq n s with
    | .ok t => .next (playPath n t)
    | .error t => .next (raiseIn .einitcap .envPlay t)
  else .next (playPath n s)

/-- ENV_REMAIN (R446). -/
def execEnvRemain (s : State) : Host.Outcome State Fault Refusal :=
  .next { s with res := { s.res with r0 := s.env.len - s.env.cursor } }

end Sys2Proof.Machine
end

