-- ==== Sys2Proof/Machine/Dispatch.lean ====
section
/-! DEFINITION. One arm for each command (spec 30_encoding R202). -/

namespace Sys2Proof.Machine

def exec (i : Instr) (s : State) : Host.Outcome State Fault Refusal :=
  match i with
  | .nop => Sys2Proof.Machine.execNop s
  | .srst => Sys2Proof.Machine.execSrst s
  | .rseInit => Sys2Proof.Machine.execRseInit s
  | .rseDeinit => Sys2Proof.Machine.execRseDeinit s
  | .rseApply => Sys2Proof.Machine.execRseApply s
  | .rseLenin => Sys2Proof.Machine.execRseLenin s
  | .rseLenout => Sys2Proof.Machine.execRseLenout s
  | .rseIsbyp => Sys2Proof.Machine.execRseIsbyp s
  | .rseGcd => Sys2Proof.Machine.execRseGcd s
  | .rrcConfig => Sys2Proof.Machine.execRrcConfig s
  | .rrcNext => Sys2Proof.Machine.execRrcNext s
  | .envOn => Sys2Proof.Machine.execEnvOn s
  | .envOff => Sys2Proof.Machine.execEnvOff s
  | .envSetadsr => Sys2Proof.Machine.execEnvSetadsr s
  | .envSetfade => Sys2Proof.Machine.execEnvSetfade s
  | .envPlay => Sys2Proof.Machine.execEnvPlay s
  | .envRemain => Sys2Proof.Machine.execEnvRemain s

end Sys2Proof.Machine
end

