-- ==== Sys2Proof/Machine/Cycle.lean ====
section
/-! DEFINITION. One clock cycle of the block (spec 43_block_control R502, 70_reset R580, R590 to R592): the host's
transaction, then the clock of a command in flight, whose effects all appear in its last cycle. -/

namespace Sys2Proof

/-- LAT less 1: the parameter LAT of 00_scope R9 is "any total function of the command and the state, at least 1" and
otherwise OPEN (70_reset R590, 93 item I-LAT), so it has no value here (log 2). -/
opaque Config.latencyExtra : Word → Machine.State → Nat

namespace Machine

/-- LAT of the command word `w` written to CMD in state `s` (R590). The block does not see what the host will do, so the
model's list of it is left out of the state. -/
def latency (w : Word) (s : State) : Nat := 1 + Config.latencyExtra w { s with host := [] }

/-- LAT of the command that a transaction would start; a read or an idle bus starts none. -/
def busLatency (op : BusOp) (s : State) : Nat :=
  match op with
  | .write _ v => latency v s
  | .idle | .read _ => 1

/-- The end of a command: the word is decoded and performed, or refused with EILLEGAL (30_encoding R201). -/
def performWord (w : Word) (s : State) : Host.Outcome State Fault Refusal :=
  match decode w with
  | .ok i => exec i s
  | .error _ => .next (raiseError .eillegal (opcodeOf w) s)

/-- The clock edge that ends a cycle: a command in flight loses a cycle, and in its last one BUSY falls with every
effect in place (R590). -/
def clockCommand (s : State) : Host.Outcome State Fault Refusal :=
  match s.pending with
  | none => .next s
  | some p =>
    if p.left ≤ 1 then performWord p.word { s with pending := none }
    else .next { s with pending := some { p with left := p.left - 1 } }

/-- What the host does in the next cycle: the head of its list, or nothing (log 1). -/
def nextCycle (s : State) : HostCycle := s.host.headD { rst := false, bus := .idle }

/-- The state once the host's next cycle is taken off its list. -/
def takeCycle (s : State) : State := { s with host := s.host.tail }

/-- One clock cycle. While `rst` is asserted the block ignores the bus (R580). -/
def runCycle (c : HostCycle) (s : State) : Host.Outcome State Fault Refusal :=
  if c.rst then .next (powerOnReset s)
  else
    match busCycle (busLatency c.bus s) c.bus s with
    | .error f => .fault f
    | .ok t => clockCommand t

/-- The state whose next cycle is idle and is the last one of the command word `w`: its next step performs `w`. -/
def withCommand (w : Word) (s : State) : State :=
  { s with pending := some { word := w, left := 1 }, host := { rst := false, bus := .idle } :: s.host }

end Machine

end Sys2Proof
end

