-- ==== Sys2Proof/Machine/Step.lean ====
section
/-! DEFINITION. The step of the machine, one clock cycle (spec 70_reset R590), and the state that runs a given command
word next. -/

namespace Sys2Proof.Machine

/-- One clock cycle of the block, with the host's next transaction. -/
def step (s : State) : Host.Outcome State Fault Refusal := runCycle (nextCycle s) (takeCycle s)

/-- `s` with the command whose bits are `w` (below `nbits`) in flight and in its last cycle, and an idle bus cycle before
the host's others, so that the next step performs exactly that command (log 1). -/
def State.withFetchWord (s : State) (nbits w : Nat) : State := withCommand (BitVec.ofNat 32 (w % 2 ^ nbits)) s

end Sys2Proof.Machine
end

