-- ==== Sys2Proof/Safety.lean ====
section
/-! DEFINITION. What counts as a good state and a clean run, in the terms the statements use: the invariants of spec
10_state R94 with the register rules beside it, the canonical form of memory, and the equality of samples that the free
NaNs of 00_scope R15 leave. -/

namespace Sys2Proof.Machine

/-- No error is recorded: the premise that 93 item I-RSVCMD asks of a claim about a correct host program. -/
abbrev errorFree (s : State) : Prop := s.status.err = false

/-- No apply has met an underrun or an overflow that the host has not cleared (40 R270, 60 R534). -/
abbrev streamClean (s : State) : Prop := s.status.unr = false ∧ s.status.ovr = false

/-- No command is in flight: BUSY reads 0 (10_state R53). -/
abbrev idle (s : State) : Prop := s.pending = none

/-- Byte offset `a` belongs to an element of the window. -/
def inWindow (p : Params) (w : Window) (a : Nat) : Bool :=
  decide (windowBase w ≤ a) && decide (a < windowBase w + 4 * windowDepth p w)

/-- Byte offset `a` belongs to an element of some window. -/
def inSomeWindow (p : Params) (a : Nat) : Bool :=
  inWindow p .kmem a || inWindow p .inp a || inWindow p .out a || inWindow p .dst a || inWindow p .smp a

/-- The memory is in canonical form and lists only bytes of the windows (20_memory R151). -/
abbrev memoryGood (s : State) : Prop :=
  Memory.wf s.mem = true ∧ s.mem.all (fun c => inSomeWindow s.inst c.1) = true

/-- ERRCODE and ERROPC are 0 when ERR is 0, and ERRCODE is one of the codes of 60 R531 when ERR is 1 (10_state R53). -/
abbrev statusGood (st : Status) : Prop :=
  (st.err = false → st.errcode = 0 ∧ st.erropc = 0) ∧
  (st.err = true → 1 ≤ st.errcode.toNat ∧ st.errcode.toNat ≤ 7)

/-- An engine that is not ACTIVE holds nothing (R60 to R68). -/
abbrev engineIdleGood (r : Rse) : Prop := r.mode ≠ .active → r = { Rse.zero with mode := r.mode }

/-- What holds of an ACTIVE engine in either mode: the hidden stores have the lengths the registers say, and no
capacity is exceeded (R63 to R68, 40 R261). -/
abbrev engineActiveGood (p : Params) (r : Rse) : Prop :=
  r.mode = .active →
    r.kl.length = r.klen.toNat ∧ r.klen.toNat ≤ p.capKmax.toNat ∧
    r.hist.length = r.h.toNat ∧ r.h.toNat ≤ p.capHist.toNat ∧
    r.carrybuf.length = r.carry.toNat ∧ r.carry.toNat ≤ r.offmax.toNat ∧
    r.inmax.toNat ≤ p.capIn.toNat ∧ r.n.toNat + r.offmax.toNat ≤ p.capOut.toNat

/-- R94(a), with U at least 1 (R61: the ratio is in lowest terms of factors that are at least 1, 40 R251). -/
abbrev engineFilterGood (r : Rse) : Prop :=
  r.mode = .active → r.byp = false →
    1 ≤ r.u.toNat ∧ Nat.gcd r.u.toNat r.d.toNat = 1 ∧
    r.phl.toNat = ceilDiv r.klen.toNat r.u.toNat ∧
    r.h.toNat = r.phl.toNat * r.u.toNat - 1 ∧
    r.inmax.toNat = ceilDiv (r.n.toNat * r.d.toNat) r.u.toNat ∧
    r.offmax.toNat = ceilDiv r.u.toNat r.d.toNat ∧
    r.dph.toNat < r.d.toNat

/-- R94(b). -/
abbrev engineBypassGood (r : Rse) : Prop :=
  r.mode = .active → r.byp = true →
    r.u = 1 ∧ r.d = 1 ∧ r.phl = 0 ∧ r.h = 0 ∧ r.inmax = r.n ∧ r.offmax = 0 ∧ r.carry = 0 ∧ r.dph = 0

/-- The engine's part of the invariant. -/
abbrev engineGood (p : Params) (r : Rse) : Prop :=
  engineIdleGood r ∧ engineActiveGood p r ∧ engineFilterGood r ∧ engineBypassGood r

/-- R94(c), with what R70, R72 to R75 and 41 R353 say of the RRC registers. -/
abbrev rrcGood (c : Rrc) (r : Rse) : Prop :=
  (c.valid = true →
    r.mode = .active ∧ c.nblk = r.n ∧ c.cur.toNat < c.cyc.toNat ∧
    c.min.toNat = (negotiate r.n.toNat r.u.toNat r.d.toNat).min ∧
    c.max.toNat = (negotiate r.n.toNat r.u.toNat r.d.toNat).max ∧
    c.nummin.toNat = (negotiate r.n.toNat r.u.toNat r.d.toNat).nummin ∧
    c.nummax.toNat = (negotiate r.n.toNat r.u.toNat r.d.toNat).nummax ∧
    c.cyc.toNat = (negotiate r.n.toNat r.u.toNat r.d.toNat).cyc) ∧
  (c.valid = false →
    c.nblk = 0 ∧ c.min = 0 ∧ c.max = 0 ∧ c.nummin = 0 ∧ c.nummax = 0 ∧ c.cyc = 0 ∧ c.cur = 0) ∧
  (1 ≤ c.upc.toNat ∧ c.upc.toNat ≤ 4) ∧ (1 ≤ c.downc.toNat ∧ c.downc.toNat ≤ 4) ∧
  c.sel.toNat ≤ 2 ∧ (c.bypsel = true → c.sel = 0)

/-- The envelope runs: ENV_STATE is one of Attack, Decay, Sustain, Release, Fadeout. -/
def phaseRuns : EnvPhase → Bool
  | .attack | .decay | .sustain | .release | .fadeout => true
  | .ready | .finished => false

/-- R94(d), (e) and (f), with the bounds of R82. -/
abbrev envGood (p : Params) (e : Env) : Prop :=
  (phaseRuns e.phase = true → e.budget ≠ 0) ∧ (phaseRuns e.phase = false → e.budget = 0) ∧
  e.cursor.toNat ≤ e.len.toNat ∧ e.len.toNat ≤ p.capSmp.toNat ∧ e.slen.toNat ≤ p.capSmp.toNat

/-- A command in flight has at least one cycle left (70_reset R590: LAT is at least 1). -/
abbrev pendingGood (s : State) : Prop := ∀ p ∈ s.pending, 1 ≤ p.left

/-- The invariant of the block: 10_state R94 and the register rules beside it. -/
abbrev State.Inv (s : State) : Prop :=
  memoryGood s ∧ statusGood s.status ∧ engineGood s.inst s.rse ∧ rrcGood s.rrc s.rse ∧ envGood s.inst s.env ∧ pendingGood s

/-- Two samples are the same datum where the spec fixes their bits: equal, or both a NaN (00_scope R15). -/
abbrev sameSample (a b : Word) : Prop := a = b ∨ (F32.isNaN a = true ∧ F32.isNaN b = true)

end Sys2Proof.Machine
end

