-- ==== Sys2Proof/Certificates/Slice0/Obligations.lean ====
section
/-! DEFINITION. The statements for the provers. Each says what a numbered rule of spec/ says of the machine, in the
terms of the model; where a clause rests on a choice of the model's own, the docstring names the log entry. -/

open Sys2Proof Sys2Proof.Machine

/-! ### Words the statements share -/

namespace Sys2Proof.Spec

/-- STATUS after an error with the given code and opcode is recorded (60 R532). -/
abbrev recorded (st : Status) (code opc : Byte) : Status :=
  if st.err then { st with errmult := true } else { st with err := true, errcode := code, erropc := opc }

/-- The state after a refusal: only the error record changes (00_scope R18). -/
abbrev refusedAs (s : State) (code opc : Byte) : State := { s with status := recorded s.status code opc }

/-- The RRC registers after `INVALIDATE_RRC()` (41 R356). -/
abbrev cleared (c : Rrc) : Rrc :=
  { c with valid := false, nblk := 0, min := 0, max := 0, nummin := 0, nummax := 0, cyc := 0, cur := 0 }

/-- A factor clamped to [1,4] (41 R352). -/
abbrev clamped (x : Int) : Nat := if x < 1 then 1 else if 4 < x then 4 else x.toNat

/-- The engine right after a successful initialisation (40 R261). -/
abbrev freshEngine (r : Rse) (byp : Bool) (u d n klen phl h inmax offmax : Nat) : Prop :=
  r.mode = .active ∧ r.byp = byp ∧ r.u.toNat = u ∧ r.d.toNat = d ∧ r.n.toNat = n ∧ r.klen.toNat = klen ∧
  r.phl.toNat = phl ∧ r.h.toNat = h ∧ r.inmax.toNat = inmax ∧ r.offmax.toNat = offmax ∧
  r.carry = 0 ∧ r.dph = 0 ∧ r.outcnt = 0 ∧ r.hist = List.replicate h 0 ∧ r.carrybuf = []

/-- Byte offset `a` is outside the elements `[0, count)` of a window. -/
abbrev outside (w : Window) (count a : Nat) : Prop := a < elemAddr w 0 ∨ elemAddr w 0 + 4 * count ≤ a

/-- The value every register reads after reset (10_state R96). -/
def resetValue (p : Params) : Reg → Word
  | .id => 0x44535041
  | .version => 0x00000007
  | .capKmax => p.capKmax
  | .capHist => p.capHist
  | .capIn => p.capIn
  | .capOut => p.capOut
  | .capDst => p.capDst
  | .capSmp => p.capSmp
  | .rrcUpreq | .rrcDownreq | .rrcUpc | .rrcDownc => 1
  | .envState => 6
  | _ => 0

/-- The numbers of RSE_STAT.MODE (10_state R60). -/
def modeNumber : EngineMode → Nat
  | .uninit => 0
  | .active => 1
  | .failed => 2

/-- The numbers of ENV_STATE (10_state R83). -/
def phaseNumber : EnvPhase → Nat
  | .ready => 0
  | .attack => 1
  | .decay => 2
  | .sustain => 3
  | .release => 4
  | .fadeout => 5
  | .finished => 6

/-- The block registers and what they read (10_state R51 to R54, R56, R90). -/
def blockReads (s : State) : List (Nat × Word) :=
  [(0x000, 0x44535041), (0x004, 0x00000007), (0x008, 0), (0x00C, statusWord s.pending.isSome s.status),
   (0x010, s.arg.a0), (0x014, s.arg.a1), (0x018, s.arg.a2), (0x01C, s.arg.a3),
   (0x020, s.res.r0), (0x024, s.res.r1), (0x028, s.res.r2), (0x02C, s.res.r3),
   (0x040, s.inst.capKmax), (0x044, s.inst.capHist), (0x048, s.inst.capIn), (0x04C, s.inst.capOut),
   (0x050, s.inst.capDst), (0x054, s.inst.capSmp)]

/-- The RSE registers and what they read: MODE in bits 1:0 and BYP in bit 2 of RSE_STAT (R60 to R65, R90). -/
def rseReads (s : State) : List (Nat × Word) :=
  [(0x100, BitVec.ofNat 32 (modeNumber s.rse.mode + 4 * s.rse.byp.toNat)), (0x104, s.rse.u), (0x108, s.rse.d),
   (0x10C, s.rse.n), (0x110, s.rse.klen), (0x114, s.rse.phl), (0x118, s.rse.h), (0x11C, s.rse.inmax),
   (0x120, s.rse.offmax), (0x124, s.rse.carry), (0x128, s.rse.dph), (0x12C, s.rse.outcnt)]

/-- The RRC registers and what they read: VALID, BYPSEL and SEL in bits 0, 1 and 3:2 of RRC_STAT (R70 to R75, R90). -/
def rrcReads (s : State) : List (Nat × Word) :=
  [(0x200, BitVec.ofNat 32 (s.rrc.valid.toNat + 2 * s.rrc.bypsel.toNat + 4 * s.rrc.sel.toNat)), (0x204, s.rrc.upreq),
   (0x208, s.rrc.downreq), (0x20C, s.rrc.upc), (0x210, s.rrc.downc), (0x214, s.rrc.nblk), (0x218, s.rrc.min),
   (0x21C, s.rrc.max), (0x220, s.rrc.nummin), (0x224, s.rrc.nummax), (0x228, s.rrc.cyc), (0x22C, s.rrc.cur)]

/-- The ENV registers and what they read: APPEND, SMPV and DSTV in bits 0, 1 and 2 of ENV_CTRL (R80 to R86, R90). -/
def envReads (s : State) : List (Nat × Word) :=
  [(0x300, BitVec.ofNat 32 (s.env.append.toNat + 2 * s.env.smpv.toNat + 4 * s.env.dstv.toNat)), (0x304, s.env.fs),
   (0x308, s.env.slen), (0x30C, BitVec.ofNat 32 (phaseNumber s.env.phase)), (0x310, s.env.atkP), (0x314, s.env.decP),
   (0x318, s.env.relP), (0x31C, s.env.susP), (0x320, s.env.fadeP), (0x324, s.env.na), (0x328, s.env.nd),
   (0x32C, s.env.ns), (0x330, s.env.nr), (0x334, s.env.nf), (0x338, s.env.slvl), (0x33C, s.env.len),
   (0x340, s.env.cursor), (0x344, s.env.budget), (0x348, s.env.gain), (0x34C, s.env.fact), (0x350, s.env.tgt)]

/-- Every register of the block with its offset and what it reads (10_state R90). -/
def registerReads (s : State) : List (Nat × Word) := blockReads s ++ rseReads s ++ rrcReads s ++ envReads s

/-- The offsets the host may read while BUSY is 1: ID, VERSION, STATUS and the six CAP registers (70_reset R591, with the
offsets of 10_state R90). -/
def busyReadable : List Nat := [0x000, 0x004, 0x00C, 0x040, 0x044, 0x048, 0x04C, 0x050, 0x054]

/-- The window elements `0`, `1`, … below `count`. -/
abbrev elements (s : State) (w : Window) (count : Nat) : List Word := (List.range count).map (readElem s w)

/-- The infinity of a sign (00_scope R15). -/
abbrev infinity (neg : Bool) : Word := if neg then 0xFF800000 else 0x7F800000

/-- The zero of a sign. -/
abbrev zero (neg : Bool) : Word := if neg then 0x80000000 else 0x00000000

/-- Bits 30:23 of a binary32 datum. -/
abbrev expoBits (w : Word) : Nat := w.toNat / 2 ^ 23 % 2 ^ 8

/-- Bits 22:0 of a binary32 datum. -/
abbrev fracBits (w : Word) : Nat := w.toNat % 2 ^ 23

/-- The exact value that the binary32 format gives a finite pattern. -/
abbrev formatValue (w : Word) : ℚ :=
  (if w.getLsbD 31 then -1 else 1) *
    (if expoBits w = 0 then (fracBits w : ℚ) / 2 ^ 149 else (2 ^ 23 + fracBits w : ℚ) * 2 ^ (expoBits w - 1) / 2 ^ 149)

/-- The five phases in their fixed order, each with its budget and its target (42 R411). -/
abbrev phaseTable (e : Env) : List (EnvPhase × Word × Word) :=
  [(.attack, e.na, 0x3F800000), (.decay, e.nd, e.slvl), (.sustain, e.ns, e.slvl), (.release, e.nr, 0x00000000),
   (.fadeout, e.nf, 0x00000000)]

/-- `w` is the binary32 datum nearest to the exact value `q`, ties to even, an infinity when `q` is too large
(00_scope R15). -/
abbrev nearest (q : ℚ) (w : Word) : Prop :=
  if |q| < 2 ^ 128 - 2 ^ 103 then
    F32.isFinite w = true ∧
    ∀ v : Word, F32.isFinite v = true →
      |q - F32.value w| ≤ |q - F32.value v| ∧
      (|q - F32.value w| = |q - F32.value v| → F32.value v ≠ F32.value w → F32.frac w % 2 = 0)
  else F32.isInf w = true ∧ (F32.sign w = true ↔ q < 0)

/-- The commands that write a RES register (10_state R54). -/
def writesRes : Instr → Bool
  | .rseLenin | .rseLenout | .rseIsbyp | .rseGcd | .rrcNext | .envRemain => true
  | _ => false

/-- The windows a command may write (20_memory R152, R154, R155, R157). -/
def writesWindow : Instr → Window → Bool
  | .rrcConfig, .kmem | .rrcConfig, .out => true
  | .rseInit, .out | .rseApply, .out => true
  | .envPlay, .kmem | .envPlay, .inp | .envPlay, .out | .envPlay, .dst => true
  | _, _ => false

end Sys2Proof.Spec

open Sys2Proof.Spec

/-! ### Command words and the step -/

/-- 30_encoding R201: decoding is total, each word selects exactly one command or is refused with EILLEGAL. -/
def Obligations.DecodingIsTotalAndExact : Prop :=
  (∀ (w : Word) (i : Instr), decode w = .ok i ↔ w = encode i) ∧
  (∀ w : Word, (∃ i, decode w = .ok i) ↔ wordLegal w = true) ∧
  (∀ (w : Word) (s : State), wordLegal w = false → performWord w s = .next (refusedAs s 0x01 (w.extractLsb' 0 8)))

/-- 30_encoding R202: the seventeen words of the map, written out. -/
def Obligations.OpcodeMapWordsDecode : Prop :=
  ∀ q ∈ ([(0x00000000, .nop), (0x00000001, .srst), (0x00000010, .rseInit), (0x00000011, .rseDeinit),
      (0x00000012, .rseApply), (0x00000013, .rseLenin), (0x00000014, .rseLenout), (0x00000015, .rseIsbyp),
      (0x00000016, .rseGcd), (0x00000020, .rrcConfig), (0x00000021, .rrcNext), (0x00000030, .envOn),
      (0x00000031, .envOff), (0x00000032, .envSetadsr), (0x00000033, .envSetfade), (0x00000034, .envPlay),
      (0x00000035, .envRemain)] : List (Word × Instr)), decode q.1 = .ok q.2

/-- A step in the last BUSY cycle of a legal word is `exec` of its command, after the host's transaction of that cycle
(43 R502, 70 R590; the cycle structure of the step is the model's, logs 1 and 2). -/
def Obligations.StepRunsTheDecodedCommand : Prop :=
  (∀ (s t : State) (w : Word) (i : Instr) (op : BusOp),
    nextCycle s = ⟨false, op⟩ → s.pending = some ⟨w, 1⟩ → decode w = .ok i →
    busCycle (busLatency op (takeCycle s)) op (takeCycle s) = .ok t → step s = exec i { t with pending := none }) ∧
  (∀ (s : State) (w : Word) (i : Instr),
    nextCycle s = ⟨false, .idle⟩ → s.pending = some ⟨w, 1⟩ → decode w = .ok i →
    step s = exec i { s with pending := none, host := s.host.tail }) ∧
  (∀ (s : State) (i : Instr), idle s → step (s.withFetchWord 32 (encode i).toNat) = exec i s)

/-- 70 R590: BUSY is 1 from the CMD write for exactly LAT cycles, nothing else changes while it is, and then every
effect is in place. -/
def Obligations.BusyLastsExactlyLatCycles : Prop :=
  ∀ (s : State) (addr w : Word) (rest : List HostCycle), idle s → addr.toNat / 4 = 2 →
    s.host = ⟨false, .write addr w⟩ :: (List.replicate (latency w s - 1) ⟨false, .idle⟩ ++ rest) →
    1 ≤ latency w s ∧
    Host.Core.run Sys2Proof.core (latency w s) s = performWord w { s with host := rest } ∧
    ∀ k, 1 ≤ k → k < latency w s →
      ∃ t : State, Host.Core.run Sys2Proof.core k s = .next t ∧ t.pending = some ⟨w, latency w s - k⟩ ∧
        t = { s with host := t.host, pending := t.pending }

/-- 70 R591, R592: a write while BUSY is 1 sets COLL and has no other effect; the running command goes on. That a write to
an unmapped offset does so too is the model's reading (log 23). -/
def Obligations.WriteWhileBusyOnlySetsColl : Prop :=
  ∀ (s : State) (w addr v : Word), nextCycle s = ⟨false, .write addr v⟩ →
    (∀ n, s.pending = some ⟨w, n + 2⟩ →
      step s = .next { s with host := s.host.tail, status := { s.status with coll := true }, pending := some ⟨w, n + 1⟩ }) ∧
    (s.pending = some ⟨w, 1⟩ →
      step s = performWord w { s with host := s.host.tail, status := { s.status with coll := true }, pending := none })

/-- 70 R592: the running command finishes as if a dropped write had not happened: COLL reaches no command. -/
def Obligations.CollisionReachesNoCommand : Prop :=
  ∀ (i : Instr) (s t : State), exec i s = .next t →
    exec i { s with status := { s.status with coll := true } } =
      .next (if i = .srst then t else { t with status := { t.status with coll := true } })

/-- 20 R162, 70 R591: a read changes nothing but what the host sees of it. While BUSY is 1 the nine registers ID, VERSION,
STATUS and CAP_* read as ever and the running command goes on, in its last cycle too; another read is a fault of the run
(log 9). -/
def Obligations.ReadsHaveNoSideEffect : Prop :=
  ∀ (s : State) (addr : Word), nextCycle s = ⟨false, .read addr⟩ →
    (idle s → step s = .next { s with host := s.host.tail, rdata := readLoc s (locate s.inst addr) }) ∧
    (∀ w n, s.pending = some ⟨w, n + 2⟩ → 4 * (addr.toNat / 4) ∈ busyReadable →
      step s = .next { s with host := s.host.tail, rdata := readLoc s (locate s.inst addr), pending := some ⟨w, n + 1⟩ }) ∧
    (∀ w, s.pending = some ⟨w, 1⟩ → 4 * (addr.toNat / 4) ∈ busyReadable →
      step s = performWord w { s with host := s.host.tail, rdata := readLoc s (locate s.inst addr), pending := none }) ∧
    (∀ p, s.pending = some p → 4 * (addr.toNat / 4) ∉ busyReadable → step s = .fault (.busyRead addr))

/-! ### Registers and windows on the bus -/

/-- 10_state R53: where the fields of STATUS stand, that its reserved bits read 0, and what a host write of `w` clears. -/
def Obligations.StatusFieldsAndWriteOneToClear : Prop :=
  (∀ (busy : Bool) (st : Status),
    (statusWord busy st).getLsbD 0 = busy ∧ (statusWord busy st).getLsbD 1 = st.err ∧
    (statusWord busy st).getLsbD 2 = st.errmult ∧ (statusWord busy st).getLsbD 3 = st.unr ∧
    (statusWord busy st).getLsbD 4 = st.ovr ∧ (statusWord busy st).getLsbD 5 = st.clamp ∧
    (statusWord busy st).getLsbD 6 = st.coll ∧ (statusWord busy st).getLsbD 7 = false ∧
    (statusWord busy st).extractLsb' 8 8 = st.errcode ∧ (statusWord busy st).extractLsb' 16 8 = st.erropc ∧
    (statusWord busy st).extractLsb' 24 8 = 0) ∧
  (∀ (s : State) (addr w : Word), idle s → addr.toNat / 4 = 3 → nextCycle s = ⟨false, .write addr w⟩ →
    ∃ t : State, step s = .next t ∧ t = { s with host := s.host.tail, status := t.status } ∧
      readReg t .status =
        (readReg s .status &&& ~~~(w &&& 0x7E)) &&& (if w.getLsbD 1 then 0xFF0000FF else 0xFFFFFFFF))

/-- 10_state R51 to R90, 20 R151, R153, R161, R163: what every byte offset of a legal instance names, and what every
register reads; `addr[1:0]` is ignored. -/
def Obligations.AddressMapIsExact : Prop :=
  (∀ (s : State) (addr : Word),
    (∀ q ∈ registerReads s, 4 * (addr.toNat / 4) = q.1 →
      (∃ r, locate s.inst addr = .reg r) ∧ readLoc s (locate s.inst addr) = q.2) ∧
    ((∃ r, locate s.inst addr = .reg r) → 4 * (addr.toNat / 4) ∈ (registerReads s).map Prod.fst)) ∧
  (∀ (p : Params) (addr : Word), p.legal = true →
    (∀ r, locate p addr = .reg r ↔ (4 * (addr.toNat / 4), r) ∈ registerMap) ∧
    (∀ w i, locate p addr = .elem w i ↔ i < windowDepth p w ∧ 4 * (addr.toNat / 4) = elemAddr w i) ∧
    (∀ k i, locate p addr = .krom k i ↔
      ((k = 0 ∧ i < 41) ∨ (k = 1 ∧ i < 61) ∨ (k = 2 ∧ i < 81)) ∧ 4 * (addr.toNat / 4) = 0x2000 + 0x200 * k + 4 * i)) ∧
  (∀ (p : Params) (i : Nat),
    elemAddr .kmem i = 0x1000 + 4 * i ∧ elemAddr .inp i = 0x4000 + 4 * i ∧ elemAddr .out i = 0x8000 + 4 * i ∧
    elemAddr .dst i = 0xC000 + 4 * i ∧ elemAddr .smp i = 0x10000 + 4 * i ∧
    windowDepth p .kmem = p.capKmax.toNat ∧ windowDepth p .inp = p.capIn.toNat ∧ windowDepth p .out = p.capOut.toNat ∧
    windowDepth p .dst = p.capDst.toNat ∧ windowDepth p .smp = p.capSmp.toNat) ∧
  (∀ (s : State) (i : Nat),
    kromTaps s.inst 0 = s.inst.ktab2.toList ∧ kromTaps s.inst 1 = s.inst.ktab3.toList ∧
    kromTaps s.inst 2 = s.inst.ktab4.toList ∧ (∀ k, readLoc s (.krom k i) = (kromTaps s.inst k).getD i 0) ∧
    ∀ w, readLoc s (.elem w i) = readElem s w i)

/-- 10_state R90, 20 R153, R155, R158: a write to a read-only register, to KROM, to OUT or to an unmapped offset
changes nothing, and an unmapped offset reads 0. -/
def Obligations.ReadOnlyAndUnmappedWritesAreIgnored : Prop :=
  ∀ (s : State) (addr v : Word), idle s →
    (nextCycle s = ⟨false, .write addr v⟩ →
      (∀ r, locate s.inst addr = .reg r →
        r ∉ [Reg.cmd, .status, .arg0, .arg1, .arg2, .arg3, .envCtrl, .envFs, .envSlen] →
        step s = .next { s with host := s.host.tail }) ∧
      (∀ k i, locate s.inst addr = .krom k i → step s = .next { s with host := s.host.tail }) ∧
      (∀ i, locate s.inst addr = .elem .out i → step s = .next { s with host := s.host.tail }) ∧
      (locate s.inst addr = .unmapped → step s = .next { s with host := s.host.tail })) ∧
    (nextCycle s = ⟨false, .read addr⟩ → locate s.inst addr = .unmapped →
      step s = .next { s with host := s.host.tail, rdata := 0 })

/-- 10_state R51, R56: the constant registers and their offsets. -/
def Obligations.IdVersionAndCapacitiesRead : Prop :=
  ∀ (s : State) (r : Reg) (addr v : Word),
    (addr, r, v) ∈ ([(0x000, .id, 0x44535041), (0x004, .version, 0x00000007), (0x040, .capKmax, s.inst.capKmax),
      (0x044, .capHist, s.inst.capHist), (0x048, .capIn, s.inst.capIn), (0x04C, .capOut, s.inst.capOut),
      (0x050, .capDst, s.inst.capDst), (0x054, .capSmp, s.inst.capSmp)] : List (Word × Reg × Word)) →
    locate s.inst addr = .reg r ∧ readReg s r = v ∧ ∀ lat x, writeReg lat x s r = s

/-- 10_state R54, R80, R81, R82: the host's own registers: ARG and ENV_FS keep the word written, ENV_CTRL its three
bits, ENV_SLEN the smaller of the word and CAP_SMP. -/
def Obligations.HostRegistersKeepWhatIsWritten : Prop :=
  ∀ (s : State) (addr v : Word), idle s → nextCycle s = ⟨false, .write addr v⟩ →
    (addr.toNat / 4 = 4 → step s = .next { s with host := s.host.tail, arg := { s.arg with a0 := v } }) ∧
    (addr.toNat / 4 = 5 → step s = .next { s with host := s.host.tail, arg := { s.arg with a1 := v } }) ∧
    (addr.toNat / 4 = 6 → step s = .next { s with host := s.host.tail, arg := { s.arg with a2 := v } }) ∧
    (addr.toNat / 4 = 7 → step s = .next { s with host := s.host.tail, arg := { s.arg with a3 := v } }) ∧
    (addr.toNat / 4 = 0x300 / 4 → ∃ t : State, step s = .next t ∧
      t = { s with host := s.host.tail, env := { s.env with append := t.env.append, smpv := t.env.smpv, dstv := t.env.dstv } } ∧
      t.env.append = v.getLsbD 0 ∧ t.env.smpv = v.getLsbD 1 ∧ t.env.dstv = v.getLsbD 2 ∧ readReg t .envCtrl = v &&& 7) ∧
    (addr.toNat / 4 = 0x304 / 4 → step s = .next { s with host := s.host.tail, env := { s.env with fs := v } }) ∧
    (addr.toNat / 4 = 0x308 / 4 → ∃ t : State, step s = .next t ∧
      t = { s with host := s.host.tail, env := { s.env with slen := t.env.slen } } ∧
      t.env.slen.toNat = Nat.min v.toNat s.inst.capSmp.toNat)

/-- 20 R151, R152, R154, R157, R160: KMEM, IN and DST keep the word the host writes, its byte `k` bits `8k+7:8k`, and no
other element, byte or register changes. -/
def Obligations.WordWindowsKeepTheWordWritten : Prop :=
  ∀ (s : State) (addr v : Word) (w : Window) (i : Nat), s.inst.legal = true → idle s →
    nextCycle s = ⟨false, .write addr v⟩ → locate s.inst addr = .elem w i → w ≠ .out → w ≠ .smp →
    ∃ t : State, step s = .next t ∧ t = { s with host := s.host.tail, mem := t.mem } ∧ readElem t w i = v ∧
      (∀ k, k < 4 → byteAt t (elemAddr w i + k) = v.extractLsb' (8 * k) 8) ∧
      (∀ w' j, ¬(w' = w ∧ j = i) → readElem t w' j = readElem s w' j) ∧
      (∀ a, a < elemAddr w i ∨ elemAddr w i + 4 ≤ a → byteAt t a = byteAt s a)

/-- 20 R159: an SMP element keeps bits 15:0 of the word written and reads sign-extended; its two bytes are the model's
(log 22). -/
def Obligations.SmpKeepsSixteenBits : Prop :=
  ∀ (s : State) (addr v : Word) (i : Nat), s.inst.legal = true → idle s →
    nextCycle s = ⟨false, .write addr v⟩ → locate s.inst addr = .elem .smp i →
    ∃ t : State, step s = .next t ∧ t = { s with host := s.host.tail, mem := t.mem } ∧
      smpCode t i = v.extractLsb' 0 16 ∧ (∀ k, k < 2 → byteAt t (elemAddr .smp i + k) = v.extractLsb' (8 * k) 8) ∧
      readElem t .smp i = (v.extractLsb' 0 16).signExtend 32 ∧
      (∀ w' j, ¬(w' = .smp ∧ j = i) → readElem t w' j = readElem s w' j) ∧
      (∀ a, a < elemAddr .smp i ∨ elemAddr .smp i + 2 ≤ a → byteAt t a = byteAt s a)

/-! ### Reset and block control -/

/-- 10_state R96: every register's value after power-on reset and after SRST, and the hidden stores empty. -/
def Obligations.RegistersHoldTheirResetValues : Prop :=
  (∀ (p : Params) (r : Reg), readReg (State.resetOf p) r = resetValue p r) ∧
  (∀ p : Params, (State.resetOf p).rse.kl = [] ∧ (State.resetOf p).rse.hist = [] ∧ (State.resetOf p).rse.carrybuf = []) ∧
  (∀ s : State, idle s → ∃ t : State, exec .srst s = .next t ∧ (∀ r, readReg t r = resetValue s.inst r) ∧
    t.rse.kl = [] ∧ t.rse.hist = [] ∧ t.rse.carrybuf = [])

/-- 43 R501, 70 R582: SRST changes the registers and hidden stores and keeps every byte of the windows. -/
def Obligations.SrstResetsRegistersAndKeepsMemory : Prop :=
  ∀ s : State, ∃ t : State, exec .srst s = .next t ∧
    t = { s with status := t.status, arg := ⟨0, 0, 0, 0⟩, res := ⟨0, 0, 0, 0⟩, rse := (State.resetOf s.inst).rse,
                 rrc := (State.resetOf s.inst).rrc, env := (State.resetOf s.inst).env } ∧
    statusWord false t.status = 0 ∧ ∀ a, byteAt t a = byteAt s a

/-- 70 R580 to R582: a cycle with `rst` asserted ignores the bus, brings every register to its reset value and leaves
every memory byte at a free value of the new power-on (logs 6, 17). -/
def Obligations.PowerOnResetCycle : Prop :=
  ∀ (s : State) (op : BusOp), nextCycle s = ⟨true, op⟩ →
    ∃ t : State, step s = .next t ∧ t = { State.resetOf s.inst with host := s.host.tail, epoch := s.epoch + 1, draws := s.draws } ∧
      (∀ r, readReg t r = resetValue s.inst r) ∧ (∀ a, byteAt t a = Config.powerOnByte (s.epoch + 1) a)

/-- 43 R500: NOP completes with no effect. -/
def Obligations.NopHasNoEffect : Prop := ∀ s : State, exec .nop s = .next s

/-! ### RSE -/

/-- 40 R260, R261: RSE_INIT of a ratio and kernel that filter. -/
def Obligations.RseInitBuildsTheFilterEngine : Prop :=
  ∀ (s : State) (g u d n klen phl : Nat),
    g = Nat.gcd (Nat.max s.arg.a0.toNat 1) (Nat.max s.arg.a1.toNat 1) →
    u = Nat.max s.arg.a0.toNat 1 / g → d = Nat.max s.arg.a1.toNat 1 / g →
    n = s.arg.a2.toNat → klen = s.arg.a3.toNat → phl = (klen + u - 1) / u →
    klen ≤ s.inst.capKmax.toNat →
    ¬(u = 1 ∧ d = 1 ∧ (klen = 0 ∨ (klen = 1 ∧ readElem s .kmem 0 = 0x3F800000))) →
    phl * u - 1 ≤ s.inst.capHist.toNat → (n * d + u - 1) / u ≤ s.inst.capIn.toNat →
    n + (u + d - 1) / d ≤ s.inst.capOut.toNat →
    ∃ t : State, exec .rseInit s = .next t ∧ t = { s with rse := t.rse, rrc := cleared s.rrc, mem := t.mem } ∧
      freshEngine t.rse false u d n klen phl (phl * u - 1) ((n * d + u - 1) / u) ((u + d - 1) / d) ∧
      t.rse.kl = elements s .kmem klen ∧
      (∀ i, i < s.inst.capOut.toNat → readElem t .out i = 0) ∧
      (∀ a, outside .out s.inst.capOut.toNat a → byteAt t a = byteAt s a)

/-- 40 R252, R260, R261: RSE_INIT of a 1:1 ratio with an identity kernel gives the bypass engine. -/
def Obligations.RseInitBuildsTheBypassEngine : Prop :=
  ∀ (s : State) (g n klen : Nat),
    g = Nat.gcd (Nat.max s.arg.a0.toNat 1) (Nat.max s.arg.a1.toNat 1) →
    Nat.max s.arg.a0.toNat 1 / g = 1 → Nat.max s.arg.a1.toNat 1 / g = 1 →
    n = s.arg.a2.toNat → klen = s.arg.a3.toNat → klen ≤ s.inst.capKmax.toNat →
    (klen = 0 ∨ (klen = 1 ∧ readElem s .kmem 0 = 0x3F800000)) →
    n ≤ s.inst.capIn.toNat → n ≤ s.inst.capOut.toNat →
    ∃ t : State, exec .rseInit s = .next t ∧ t = { s with rse := t.rse, rrc := cleared s.rrc, mem := t.mem } ∧
      freshEngine t.rse true 1 1 n klen 0 0 n 0 ∧ t.rse.kl = elements s .kmem klen ∧
      (∀ i, i < s.inst.capOut.toNat → readElem t .out i = 0) ∧
      (∀ a, outside .out s.inst.capOut.toNat a → byteAt t a = byteAt s a)

/-- 40 R262, R263: an initialisation that exceeds a capacity leaves the engine FAILED with every other RSE register 0,
the negotiation invalid, OUT and all memory as they were, and EINITCAP recorded. -/
def Obligations.RseInitOverCapacityFails : Prop :=
  ∀ (s : State) (g u d n klen : Nat),
    g = Nat.gcd (Nat.max s.arg.a0.toNat 1) (Nat.max s.arg.a1.toNat 1) →
    u = Nat.max s.arg.a0.toNat 1 / g → d = Nat.max s.arg.a1.toNat 1 / g →
    n = s.arg.a2.toNat → klen = s.arg.a3.toNat →
    (s.inst.capKmax.toNat < klen ∨
      (u = 1 ∧ d = 1 ∧ (klen = 0 ∨ (klen = 1 ∧ readElem s .kmem 0 = 0x3F800000)) ∧
        (s.inst.capIn.toNat < n ∨ s.inst.capOut.toNat < n)) ∨
      (¬(u = 1 ∧ d = 1 ∧ (klen = 0 ∨ (klen = 1 ∧ readElem s .kmem 0 = 0x3F800000))) ∧
        (s.inst.capHist.toNat < (klen + u - 1) / u * u - 1 ∨ s.inst.capIn.toNat < (n * d + u - 1) / u ∨
          s.inst.capOut.toNat < n + (u + d - 1) / d))) →
    exec .rseInit s =
      .next { s with rse := { (State.resetOf s.inst).rse with mode := .failed }, rrc := cleared s.rrc,
                     status := recorded s.status 0x03 0x10 }

/-- 40 R264: RSE_DEINIT completes in every MODE; OUT and all memory stay. -/
def Obligations.RseDeinitClearsTheEngine : Prop :=
  ∀ s : State, exec .rseDeinit s = .next { s with rse := (State.resetOf s.inst).rse, rrc := cleared s.rrc }

/-- 40 R265, R275, R277, 60 R531, R535: the refusals of RSE_APPLY, RSE_LENIN and RSE_LENOUT, in the order of their
checks; only the error record changes. -/
def Obligations.RefusedRseCommandsOnlyRecord : Prop :=
  ∀ s : State,
    (s.rse.mode ≠ .active →
      exec .rseApply s = .next (refusedAs s 0x02 0x12) ∧ exec .rseLenin s = .next (refusedAs s 0x02 0x13) ∧
      exec .rseLenout s = .next (refusedAs s 0x02 0x14)) ∧
    (s.rse.mode = .active →
      (s.rse.inmax.toNat < s.arg.a0.toNat → exec .rseApply s = .next (refusedAs s 0x04 0x12)) ∧
      (1 ≤ s.rse.u.toNat → 2 ^ 32 ≤ (s.arg.a0.toNat * s.rse.d.toNat + s.rse.u.toNat - 1) / s.rse.u.toNat →
        exec .rseLenin s = .next (refusedAs s 0x05 0x13)) ∧
      (2 ^ 32 ≤ (s.rse.u.toNat * s.arg.a0.toNat + s.rse.d.toNat - 1) / s.rse.d.toNat →
        exec .rseLenout s = .next (refusedAs s 0x05 0x14)))

/-- 40 R266, R287: in bypass RSE_APPLY copies the chunk to OUT bit for bit. -/
def Obligations.RseApplyInBypassCopies : Prop :=
  ∀ (s : State) (numIn : Nat), s.inst.legal = true → s.arg.a0.toNat = numIn → s.rse.mode = .active → s.rse.byp = true →
    numIn ≤ s.rse.inmax.toNat → numIn ≤ s.inst.capOut.toNat →
    ∃ t : State, exec .rseApply s = .next t ∧
      t = { s with rse := { s.rse with outcnt := s.arg.a0 }, mem := t.mem } ∧
      (∀ i, i < numIn → readElem t .out i = readElem s .inp i) ∧
      (∀ a, outside .out numIn a → byteAt t a = byteAt s a)

/-- 40 R270, R271: what a filtering RSE_APPLY delivers, carries, flags and keeps for the next call, from the computed
samples `keptOutputs`. -/
def Obligations.RseApplyDeliversWithCarry : Prop :=
  ∀ (s : State) (numIn n : Nat) (chunk av : List Word), s.arg.a0.toNat = numIn → s.rse.n.toNat = n →
    s.rse.mode = .active → s.rse.byp = false → numIn ≤ s.rse.inmax.toNat → n ≤ s.inst.capOut.toNat →
    1 ≤ s.rse.d.toNat → chunk = elements s .inp numIn →
    av = s.rse.carrybuf ++ keptOutputs s.draws s.rse chunk →
    ∃ t : State, exec .rseApply s = .next t ∧
      t = { s with rse := t.rse, status := t.status, mem := t.mem, draws := t.draws } ∧
      (∀ i, i < n → readElem t .out i = av.getD i 0) ∧
      (∀ a, outside .out n a → byteAt t a = byteAt s a) ∧
      t.status = { s.status with unr := s.status.unr || decide (av.length < n),
                                 ovr := s.status.ovr || decide (n + s.rse.offmax.toNat < av.length) } ∧
      t.rse = { s.rse with carrybuf := (av.drop n).take s.rse.offmax.toNat, carry := t.rse.carry, outcnt := s.rse.n,
                           dph := t.rse.dph, hist := (s.rse.hist ++ chunk).drop ((s.rse.hist ++ chunk).length - s.rse.h.toNat) } ∧
      t.rse.carry.toNat = t.rse.carrybuf.length ∧
      (t.rse.dph.toNat : Int) = ((s.rse.dph.toNat : Int) - s.rse.u.toNat * numIn) % s.rse.d.toNat

/-- 40 R253 to R255, R267: a filtered value is accumulated from +0.0 over ascending taps, newest sample first, with the
interleaved taps of the kernel and +0.0 beyond it; and the samples computed for a chunk are those of the double loop over
input positions and phases that KEEP lets pass, in its order, KCOUNT of them (the model computes the kept positions
directly, log 13, and numbers the free NaN draws, log 8). -/
def Obligations.KeptOutputsAreTheDecimatedLoop : Prop :=
  (∀ (base : Nat) (r : Rse) (staged : List Word) (m p : Nat) (acc : Nat → Word),
    acc 0 = 0x00000000 →
    (∀ t, t < r.phl.toNat →
      acc (t + 1) = F32.add (base + 2 * t + 1) (acc t)
        (F32.mul (base + 2 * t)
          (if p + r.u.toNat * t < r.klen.toNat then r.kl.getD (p + r.u.toNat * t) 0x00000000 else 0x00000000)
          (staged.getD (r.h.toNat + m - t) 0x00000000))) →
    firPos base r staged m p = acc r.phl.toNat) ∧
  (∀ r : Rse, 1 ≤ r.u.toNat → r.h.toNat = r.phl.toNat * r.u.toNat - 1 → r.phl.toNat - 1 ≤ r.h.toNat) ∧
  (∀ (base : Nat) (r : Rse) (chunk : List Word), 1 ≤ r.u.toNat → 1 ≤ r.d.toNat →
    keptOutputs base r chunk =
      ((List.range chunk.length).flatMap (fun m =>
        ((List.range r.u.toNat).filter (fun p =>
          decide (r.dph.toNat ≤ r.u.toNat * m + p ∧ (r.u.toNat * m + p - r.dph.toNat) % r.d.toNat = 0))).map
            (fun p => (m, p)))).mapIdx
        (fun i q => firPos (base + 2 * r.phl.toNat * i) r (r.hist ++ chunk) q.1 q.2) ∧
    (keptOutputs base r chunk).length =
      (if r.dph.toNat < r.u.toNat * chunk.length then
        (r.u.toNat * chunk.length - r.dph.toNat + r.d.toNat - 1) / r.d.toNat else 0))

/-- 40 R273: a NaN or an infinity in the window of a filtered position makes the result a NaN or an infinity, whatever
the taps, the padding ones included. -/
def Obligations.NonFiniteSamplesStayNonFinite : Prop :=
  ∀ (base : Nat) (r : Rse) (staged : List Word) (m p t : Nat), t < r.phl.toNat →
    F32.isFinite (staged.getD (r.h.toNat + m - t) 0) = false →
    F32.isFinite (firPos base r staged m p) = false

/-- 40 R284, R285: two chunks in two calls compute the samples, the history and the decimation phase of one call with
their concatenation. Samples agree up to the free bits of a NaN (00_scope R15; the spec's "bit for bit" does not
bind the bits that its own item I-NAN leaves free, log 8). -/
def Obligations.ChunkingDoesNotChangeTheStream : Prop :=
  ∀ (r : Rse) (xs ys : List Word) (b1 b2 b3 : Nat), 1 ≤ r.u.toNat → r.dph.toNat < r.d.toNat →
    r.hist.length = r.h.toNat → r.phl.toNat ≤ r.h.toNat + 1 →
    let r1 : Rse := { r with dph := resultU32 (nextPhase r.dph.toNat r.u.toNat xs.length r.d.toNat),
                             hist := lastN r.h.toNat (r.hist ++ xs) }
    List.Forall₂ sameSample (keptOutputs b1 r xs ++ keptOutputs b2 r1 ys) (keptOutputs b3 r (xs ++ ys)) ∧
    lastN r.h.toNat (r1.hist ++ ys) = lastN r.h.toNat (r.hist ++ (xs ++ ys)) ∧
    nextPhase r1.dph.toNat r.u.toNat ys.length r.d.toNat = nextPhase r.dph.toNat r.u.toNat (xs ++ ys).length r.d.toNat

/-- 40 R286: the negotiated sequence never underruns or overflows: from the carry and the phase of k calls, the next
due chunk sets no flag and gives the carry and the phase of k + 1 calls; at a cycle's end both are 0. -/
def Obligations.NegotiatedChunksNeverUnderrunOrOverflow : Prop :=
  ∀ (s : State) (k n u d : Nat), s.rse.mode = .active → s.rse.byp = false → s.rse.n.toNat = n → s.rse.u.toNat = u →
    s.rse.d.toNat = d → 1 ≤ u → 1 ≤ d → s.rse.inmax.toNat = ceilDiv (n * d) u → s.rse.offmax.toNat = ceilDiv u d →
    s.rse.carrybuf.length = ceilDiv (u * ceilDiv (k * n * d) u) d - k * n →
    (s.rse.dph.toNat : Int) = (-((u * ceilDiv (k * n * d) u : Nat) : Int)) % d →
    s.arg.a0.toNat = seqLen n u d (k % (negotiate n u d).cyc) →
    ∃ t : State, exec .rseApply s = .next t ∧ t.status = s.status ∧
      t.rse.carry.toNat = ceilDiv (u * ceilDiv ((k + 1) * n * d) u) d - (k + 1) * n ∧
      t.rse.carrybuf.length = t.rse.carry.toNat ∧ t.rse.carry.toNat ≤ s.rse.offmax.toNat ∧
      (t.rse.dph.toNat : Int) = (-((u * ceilDiv ((k + 1) * n * d) u : Nat) : Int)) % d ∧
      ((k + 1) % (negotiate n u d).cyc = 0 → t.rse.carry = 0 ∧ t.rse.dph = 0)

/-- 40 R258, R275: RSE_LENIN's result: the floor and the ceiling of `M·D/U`, and counts under which a cycle is exact. -/
def Obligations.RseLeninGivesTheNegotiation : Prop :=
  ∀ (s : State) (q u : Nat), s.rse.mode = .active → s.rse.u.toNat = u → 1 ≤ u →
    q = s.arg.a0.toNat * s.rse.d.toNat → (q + u - 1) / u < 2 ^ 32 →
    ∃ t : State, exec .rseLenin s = .next t ∧ t = { s with res := t.res } ∧
      t.res.r0.toNat = q / u ∧ t.res.r1.toNat = (q + u - 1) / u ∧
      (q % u = 0 → t.res.r2 = 1 ∧ t.res.r3 = 0) ∧
      (q % u ≠ 0 → t.res.r3.toNat * Nat.gcd (q % u) u = q % u ∧
        (t.res.r2.toNat + t.res.r3.toNat) * Nat.gcd (q % u) u = u) ∧
      u * (t.res.r2.toNat * t.res.r0.toNat + t.res.r3.toNat * t.res.r1.toNat) = (t.res.r2.toNat + t.res.r3.toNat) * q

/-- 40 R259, R277: RSE_LENOUT's result is the least `o` with `U·I ≤ D·o`; it reads no stream state. -/
def Obligations.RseLenoutGivesTheOutputCount : Prop :=
  ∀ (s : State) (o : Nat), s.rse.mode = .active → 1 ≤ s.rse.d.toNat →
    s.rse.u.toNat * s.arg.a0.toNat ≤ s.rse.d.toNat * o →
    (∀ o', s.rse.u.toNat * s.arg.a0.toNat ≤ s.rse.d.toNat * o' → o ≤ o') → o < 2 ^ 32 →
    ∃ t : State, exec .rseLenout s = .next t ∧ t = { s with res := { s.res with r0 := t.res.r0 } } ∧ t.res.r0.toNat = o

/-- 40 R279: RSE_ISBYP; the result is 0 in UNINIT and FAILED, where the engine holds nothing. -/
def Obligations.RseIsbypGivesTheBypassBit : Prop :=
  ∀ s : State,
    exec .rseIsbyp s = .next { s with res := { s.res with r0 := if s.rse.byp then 1 else 0 } } ∧
    (engineIdleGood s.rse → s.rse.mode ≠ .active → exec .rseIsbyp s = .next { s with res := { s.res with r0 := 0 } })

/-- 40 R250, R281: RSE_GCD gives the greatest common divisor in every MODE, 0 for (0, 0). -/
def Obligations.RseGcdGivesTheGreatestCommonDivisor : Prop :=
  ∀ s : State, ∃ t : State, exec .rseGcd s = .next t ∧ t = { s with res := { s.res with r0 := t.res.r0 } } ∧
    t.res.r0.toNat ∣ s.arg.a0.toNat ∧ t.res.r0.toNat ∣ s.arg.a1.toNat ∧
    (∀ c : Nat, c ∣ s.arg.a0.toNat → c ∣ s.arg.a1.toNat → c ∣ t.res.r0.toNat)

/-! ### RRC -/

/-- 41 R350 to R353, R358: RRC_CONFIG with a kernel: the clamped factors, the scaled table in KMEM, the engine and the
negotiation at the reduced ratio. -/
def Obligations.RrcConfigBuildsTheFilter : Prop :=
  ∀ (s : State) (uc dc m g u d n klen phl : Nat), s.inst.legal = true →
    uc = clamped s.arg.a0.toInt → dc = clamped s.arg.a1.toInt → m = Nat.max uc dc → 2 ≤ m →
    g = Nat.gcd uc dc → u = uc / g → d = dc / g → n = s.arg.a2.toNat → klen = 41 + 20 * (m - 2) →
    phl = (klen + u - 1) / u → (n * d + u - 1) / u ≤ s.inst.capIn.toNat → n + (u + d - 1) / d ≤ s.inst.capOut.toNat →
    ∃ t : State, exec .rrcConfig s = .next t ∧
      t = { s with status := t.status, rse := t.rse, rrc := t.rrc, mem := t.mem, draws := t.draws } ∧
      t.status = { s.status with clamp := s.status.clamp || decide ((uc : Int) ≠ s.arg.a0.toInt) ||
                                          decide ((dc : Int) ≠ s.arg.a1.toInt) } ∧
      freshEngine t.rse false u d n klen phl (phl * u - 1) ((n * d + u - 1) / u) ((u + d - 1) / d) ∧
      (∀ i, i < klen → readElem t .kmem i = F32.mul (s.draws + i) ((kromTaps s.inst (m - 2)).getD i 0) (F32.ofInt uc)) ∧
      t.rse.kl = elements t .kmem klen ∧
      (∀ i, i < s.inst.capOut.toNat → readElem t .out i = 0) ∧
      (∀ a, outside .kmem klen a → outside .out s.inst.capOut.toNat a → byteAt t a = byteAt s a) ∧
      t.rrc = { s.rrc with valid := true, bypsel := false, sel := t.rrc.sel, upreq := s.arg.a0, downreq := s.arg.a1,
                           upc := t.rrc.upc, downc := t.rrc.downc, nblk := s.arg.a2, min := t.rrc.min, max := t.rrc.max,
                           nummin := t.rrc.nummin, nummax := t.rrc.nummax, cyc := t.rrc.cyc, cur := 0 } ∧
      t.rrc.sel.toNat = m - 2 ∧ t.rrc.upc.toNat = uc ∧ t.rrc.downc.toNat = dc ∧
      t.rrc.min.toNat = n * d / u ∧ t.rrc.max.toNat = (n * d + u - 1) / u ∧
      t.rrc.nummin.toNat = (negotiate n u d).nummin ∧ t.rrc.nummax.toNat = (negotiate n u d).nummax ∧
      t.rrc.cyc.toNat = (negotiate n u d).cyc

/-- 41 R350 to R353, R358: RRC_CONFIG of factors that clamp to 1:1 writes the unit tap and configures the bypass. -/
def Obligations.RrcConfigBuildsTheBypass : Prop :=
  ∀ (s : State) (n : Nat), s.inst.legal = true → clamped s.arg.a0.toInt = 1 → clamped s.arg.a1.toInt = 1 →
    n = s.arg.a2.toNat → n ≤ s.inst.capIn.toNat → n ≤ s.inst.capOut.toNat →
    ∃ t : State, exec .rrcConfig s = .next t ∧
      t = { s with status := t.status, rse := t.rse, rrc := t.rrc, mem := t.mem, draws := t.draws } ∧
      t.status = { s.status with clamp := s.status.clamp || decide (s.arg.a0.toInt ≠ 1) || decide (s.arg.a1.toInt ≠ 1) } ∧
      freshEngine t.rse true 1 1 n 1 0 0 n 0 ∧ readElem t .kmem 0 = 0x3F800000 ∧ t.rse.kl = [0x3F800000] ∧
      (∀ i, i < s.inst.capOut.toNat → readElem t .out i = 0) ∧
      (∀ a, outside .kmem 1 a → outside .out s.inst.capOut.toNat a → byteAt t a = byteAt s a) ∧
      t.rrc = { valid := true, bypsel := true, sel := 0, upreq := s.arg.a0, downreq := s.arg.a1, upc := 1, downc := 1,
                nblk := s.arg.a2, min := s.arg.a2, max := s.arg.a2, nummin := 1, nummax := 0, cyc := 1, cur := 0 }

/-- 41 R351, R356, 40 R262: a failed RRC_CONFIG leaves the engine FAILED and the negotiation invalid; the request, the
clamped factors, the kernel choice and KMEM stay written, OUT is as it was, and EINITCAP is recorded. -/
def Obligations.RrcConfigOverCapacityFails : Prop :=
  ∀ (s : State) (uc dc m g u d n klen : Nat), s.inst.legal = true →
    uc = clamped s.arg.a0.toInt → dc = clamped s.arg.a1.toInt → m = Nat.max uc dc →
    g = Nat.gcd uc dc → u = uc / g → d = dc / g → n = s.arg.a2.toNat →
    klen = (if m = 1 then 1 else 41 + 20 * (m - 2)) →
    (s.inst.capIn.toNat < (n * d + u - 1) / u ∨
      s.inst.capOut.toNat < (if m = 1 then n else n + (u + d - 1) / d)) →
    ∃ t : State, exec .rrcConfig s = .next t ∧
      t = { s with status := t.status, rse := { (State.resetOf s.inst).rse with mode := .failed }, rrc := t.rrc,
                   mem := t.mem, draws := t.draws } ∧
      t.status = recorded { s.status with clamp := s.status.clamp || decide ((uc : Int) ≠ s.arg.a0.toInt) ||
                                                   decide ((dc : Int) ≠ s.arg.a1.toInt) } 0x03 0x20 ∧
      t.rrc = { cleared s.rrc with upreq := s.arg.a0, downreq := s.arg.a1, upc := t.rrc.upc, downc := t.rrc.downc,
                                   bypsel := decide (m = 1), sel := t.rrc.sel } ∧
      t.rrc.upc.toNat = uc ∧ t.rrc.downc.toNat = dc ∧ t.rrc.sel.toNat = m - 2 ∧
      (∀ i, i < klen → readElem t .kmem i =
        (if m = 1 then 0x3F800000 else F32.mul (s.draws + i) ((kromTaps s.inst (m - 2)).getD i 0) (F32.ofInt uc))) ∧
      (∀ a, outside .kmem klen a → byteAt t a = byteAt s a)

/-- 41 R360: RRC_NEXT: ENOTCFG without a configuration, else the due length in RES0 and the cursor moved on. -/
def Obligations.RrcNextGivesTheDueLength : Prop :=
  ∀ s : State,
    (s.rrc.valid = false → exec .rrcNext s = .next (refusedAs s 0x06 0x21)) ∧
    (s.rrc.valid = true → 1 ≤ s.rse.u.toNat → 1 ≤ s.rrc.cyc.toNat →
      ceilDiv (s.rrc.nblk.toNat * s.rse.d.toNat) s.rse.u.toNat < 2 ^ 32 →
      ∃ t : State, exec .rrcNext s = .next t ∧
        t = { s with res := { s.res with r0 := t.res.r0 }, rrc := { s.rrc with cur := t.rrc.cur } } ∧
        t.res.r0.toNat = seqLen s.rrc.nblk.toNat s.rse.u.toNat s.rse.d.toNat s.rrc.cur.toNat ∧
        t.rrc.cur.toNat = (s.rrc.cur.toNat + 1) % s.rrc.cyc.toNat)

/-- 41 R355: the properties (a) to (e) of SEQ, for the negotiation that 40 R258 computes. -/
def Obligations.NegotiatedSequenceProperties : Prop :=
  ∀ n u d : Nat, 1 ≤ u →
    (negotiate n u d).min = n * d / u ∧
    (n * d % u = 0 → (negotiate n u d).max = n * d / u ∧ (negotiate n u d).nummin = 1 ∧ (negotiate n u d).nummax = 0 ∧
      (negotiate n u d).cyc = 1) ∧
    (n * d % u ≠ 0 → (negotiate n u d).max = n * d / u + 1 ∧
      (negotiate n u d).cyc * Nat.gcd (n * d % u) u = u ∧ (negotiate n u d).nummax * Nat.gcd (n * d % u) u = n * d % u ∧
      (negotiate n u d).nummin + (negotiate n u d).nummax = (negotiate n u d).cyc) ∧
    (∀ k, seqLen n u d k = (negotiate n u d).min ∨ seqLen n u d k = (negotiate n u d).max) ∧
    ((negotiate n u d).min ≠ (negotiate n u d).max →
      ((List.range (negotiate n u d).cyc).filter (fun k => seqLen n u d k == (negotiate n u d).max)).length =
        (negotiate n u d).nummax) ∧
    u * ((List.range (negotiate n u d).cyc).map (seqLen n u d)).sum = (negotiate n u d).cyc * n * d ∧
    (∀ k, ((List.range k).map (seqLen n u d)).sum = ceilDiv (k * n * d) u ∧
      k * n * d ≤ u * ceilDiv (k * n * d) u ∧ u * ceilDiv (k * n * d) u < k * n * d + u) ∧
    seqLen n u d 0 = (negotiate n u d).max

/-! ### ENV -/

/-- 42 R400, R403: ENV_ON latches the parameters and starts a note in Ready. -/
def Obligations.EnvOnLatchesAndStarts : Prop :=
  ∀ s : State, ∃ t : State, exec .envOn s = .next t ∧
    t = { s with env := { s.env with na := t.env.na, nd := t.env.nd, ns := t.env.ns, nr := t.env.nr, nf := t.env.nf,
                                     slvl := s.env.susP, len := s.env.slen, cursor := 0, phase := .ready, budget := 0,
                                     gain := 0, fact := 0, tgt := 0 } } ∧
    t.env.na.toNat = secToSamples s.env.atkP s.env.fs ∧ t.env.nd.toNat = secToSamples s.env.decP s.env.fs ∧
    t.env.nr.toNat = secToSamples s.env.relP s.env.fs ∧ t.env.nf.toNat = secToSamples s.env.fadeP s.env.fs ∧
    (t.env.ns.toNat : Int) =
      max ((s.env.slen.toNat : Int) - t.env.na.toNat - t.env.nd.toNat - t.env.nr.toNat) 0

/-- 42 R402, 70 R583: SEC2SMP: 0 for a NaN or non-positive duration, else the exact product rounded down with a cap;
+infinity gives the cap; at ENV_FS = 0 every duration, an infinite one too, is 0 samples (log 12). -/
def Obligations.SecondsConvertByFloor : Prop :=
  ∀ x fs : Word,
    (F32.isNaN x = true → secToSamples x fs = 0) ∧
    (F32.isInf x = true → F32.sign x = true → secToSamples x fs = 0) ∧
    (F32.isInf x = true → F32.sign x = false → 1 ≤ fs.toNat → secToSamples x fs = 2 ^ 31 - 1) ∧
    (F32.isFinite x = true → F32.value x ≤ 0 → secToSamples x fs = 0) ∧
    (F32.isFinite x = true → 0 < F32.value x →
      (secToSamples x fs : Int) = min ⌊F32.value x * (fs.toNat : ℚ)⌋ (2 ^ 31 - 1)) ∧
    secToSamples x 0 = 0

/-- 42 R405: ENV_OFF in a phase before Fadeout enters Fadeout with the latched budget or finishes; in Fadeout and in
Finished it has no effect. The gain never changes. -/
def Obligations.EnvOffEntersFadeoutOrFinishes : Prop :=
  ∀ s : State,
    (s.env.phase ≠ .fadeout → s.env.phase ≠ .finished → s.env.nf ≠ 0 →
      exec .envOff s = .next { s with env := { s.env with phase := .fadeout, budget := s.env.nf, tgt := 0,
                                                          fact := envFactor s.env.nf.toNat } }) ∧
    (s.env.phase ≠ .fadeout → s.env.phase ≠ .finished → s.env.nf = 0 →
      exec .envOff s = .next { s with env := { s.env with phase := .finished, budget := 0 } }) ∧
    (s.env.phase = .fadeout ∨ s.env.phase = .finished → exec .envOff s = .next s)

/-- 42 R407, R409: ENV_SETADSR and ENV_SETFADE write the pending parameters as given. -/
def Obligations.EnvSettersWriteThePendingParameters : Prop :=
  ∀ s : State,
    exec .envSetadsr s = .next { s with env := { s.env with atkP := s.arg.a0, decP := s.arg.a1, relP := s.arg.a2,
                                                            susP := s.arg.a3 } } ∧
    exec .envSetfade s = .next { s with env := { s.env with fadeP := s.arg.a0 } }

/-- 42 R446: ENV_REMAIN gives the unplayed samples of the buffer, and with the cursor in the buffer the result is in
[0, L]. -/
def Obligations.EnvRemainGivesTheUnplayedSamples : Prop :=
  ∀ s : State, ∃ t : State, exec .envRemain s = .next t ∧ t = { s with res := { s.res with r0 := t.res.r0 } } ∧
    (s.env.cursor.toNat ≤ s.env.len.toNat → t.res.r0.toNat = s.env.len.toNat - s.env.cursor.toNat)

/-- 42 R441, R445(b): ENV_PLAY that plays nothing: too long a block is refused, a null reference finishes the note, and
in Finished nothing happens. -/
def Obligations.EnvPlayWithoutAudio : Prop :=
  ∀ s : State,
    (s.inst.capDst.toNat < s.arg.a0.toNat → exec .envPlay s = .next (refusedAs s 0x07 0x34)) ∧
    (s.arg.a0.toNat ≤ s.inst.capDst.toNat → (s.env.smpv = false ∨ s.env.dstv = false) →
      exec .envPlay s = .next { s with env := { s.env with phase := .finished, budget := 0 } }) ∧
    (s.arg.a0.toNat ≤ s.inst.capDst.toNat → s.env.smpv = true → s.env.dstv = true → s.env.phase = .finished →
      exec .envPlay s = .next s)

/-- 42 R442, R444: the 1:1 path: the samples up to the note's end go to DST, added or in place; nothing else of memory
changes. -/
def Obligations.EnvPlayDirectWritesTheSamples : Prop :=
  ∀ (s : State) (n k : Nat) (xs : List Word), s.arg.a0.toNat = n → n ≤ s.inst.capDst.toNat →
    s.env.smpv = true → s.env.dstv = true → s.env.phase ≠ .finished → s.rrc.valid = true → s.rrc.nblk = s.arg.a0 →
    s.rse.byp = true → xs = (envSamples n s).1 → k = xs.length →
    ∃ t : State, exec .envPlay s = .next t ∧ t = { s with env := t.env, mem := t.mem, draws := t.draws } ∧
      k ≤ n ∧ t.env = (envSamples n s).2.env ∧
      (s.env.append = false → ∀ i, i < k → readElem t .dst i = xs.getD i 0) ∧
      (s.env.append = true → ∀ i, i < k →
        readElem t .dst i = F32.add ((envSamples n s).2.draws + i) (readElem s .dst i) (xs.getD i 0)) ∧
      (∀ a, outside .dst k a → byteAt t a = byteAt s a)

/-- 42 R443, R444: the resample path: the due number of source samples into IN, silence after the note's end, one apply
of the engine, and the whole block from OUT into DST. -/
def Obligations.EnvPlayResampleFiltersTheSamples : Prop :=
  ∀ (s u : State) (n numIn : Nat) (chunk av xs : List Word), s.inst.legal = true → s.arg.a0.toNat = n →
    n ≤ s.inst.capDst.toNat → s.env.smpv = true → s.env.dstv = true → s.env.phase ≠ .finished →
    s.rrc.valid = true → s.rrc.nblk = s.arg.a0 → 1 ≤ s.rrc.cyc.toNat → s.rse.byp = false → s.rse.n = s.arg.a0 →
    numIn = seqLen n s.rse.u.toNat s.rse.d.toNat s.rrc.cur.toNat →
    numIn ≤ s.inst.capIn.toNat → n ≤ s.inst.capOut.toNat → envSamples numIn s = (xs, u) →
    chunk = xs ++ List.replicate (numIn - xs.length) 0 →
    av = s.rse.carrybuf ++ keptOutputs u.draws s.rse chunk →
    ∃ t : State, exec .envPlay s = .next t ∧
      t = { s with env := u.env, rrc := { s.rrc with cur := t.rrc.cur }, rse := t.rse, status := t.status,
                   mem := t.mem, draws := t.draws } ∧
      t.rse = { s.rse with carrybuf := (av.drop n).take s.rse.offmax.toNat, carry := t.rse.carry, outcnt := s.rse.n,
                           dph := t.rse.dph, hist := (s.rse.hist ++ chunk).drop ((s.rse.hist ++ chunk).length - s.rse.h.toNat) } ∧
      t.rse.carry.toNat = t.rse.carrybuf.length ∧
      (1 ≤ s.rse.d.toNat →
        (t.rse.dph.toNat : Int) = ((s.rse.dph.toNat : Int) - s.rse.u.toNat * numIn) % s.rse.d.toNat) ∧
      t.rrc.cur.toNat = (s.rrc.cur.toNat + 1) % s.rrc.cyc.toNat ∧
      t.status = { s.status with unr := s.status.unr || decide (av.length < n),
                                 ovr := s.status.ovr || decide (n + s.rse.offmax.toNat < av.length) } ∧
      (∀ i, i < numIn → readElem t .inp i = chunk.getD i 0) ∧
      (∀ i, i < n → readElem t .out i = av.getD i 0) ∧
      (s.env.append = false → ∀ i, i < n → readElem t .dst i = av.getD i 0) ∧
      (s.env.append = true → ∀ i, i < n → ∃ q, readElem t .dst i = F32.add q (readElem s .dst i) (av.getD i 0)) ∧
      (∀ a, outside .inp numIn a → outside .out n a → outside .dst n a → byteAt t a = byteAt s a)

/-- 41 R357, 42 R441: an ENV_PLAY that must reconfigure plays from the state that RRC_CONFIG with the kept request and
the block length gives, and where that fails it records EINITCAP and leaves the envelope where it was. -/
def Obligations.EnvPlayReconfiguresLikeRrcConfig : Prop :=
  ∀ s c : State, s.arg.a0.toNat ≤ s.inst.capDst.toNat → s.env.smpv = true → s.env.dstv = true →
    s.env.phase ≠ .finished → (s.rrc.valid = false ∨ s.rrc.nblk ≠ s.arg.a0) →
    exec .rrcConfig { s with arg := ⟨s.rrc.upreq, s.rrc.downreq, s.arg.a0, s.arg.a3⟩ } = .next c →
    (c.rrc.valid = true → exec .envPlay s = exec .envPlay { c with arg := s.arg }) ∧
    (c.rrc.valid = false →
      exec .envPlay s =
        .next { c with arg := s.arg, status := recorded { s.status with clamp := c.status.clamp } 0x03 0x34 }) ∧
    c.env = s.env

/-- 42 R422: one sample in a running phase: the gain first, then the scaled code, then the cursor, the budget and at
once the transition. Ready is left before the sample; in Finished, and at the buffer's end, there is no sample. A run of samples (R442's loop) is one sample after the other up to
the first that is none. -/
def Obligations.EnvSampleStepsTheEnvelope : Prop :=
  (∀ s : State, envSamples 0 s = ([], s)) ∧
  (∀ (n : Nat) (s t : State), envSample s = (none, t) → envSamples (n + 1) s = ([], t)) ∧
  (∀ (n : Nat) (s t : State) (x : Word), envSample s = (some x, t) →
    envSamples (n + 1) s = (x :: (envSamples n t).1, (envSamples n t).2)) ∧
  ∀ (s : State) (g : Word),
    (s.env.phase = .finished → envSample s = (none, s)) ∧
    (s.env.phase ≠ .finished → s.env.len.toNat ≤ s.env.cursor.toNat →
      envSample s = (none, { s with env := { s.env with phase := .finished, budget := 0 } })) ∧
    (s.env.phase = .ready → s.env.cursor.toNat < s.env.len.toNat →
      envSample s = envSample { s with env := envAdvance s.env }) ∧
    (phaseRuns s.env.phase = true → s.env.cursor.toNat < s.env.len.toNat →
      g = F32.add (s.draws + 3) (F32.mul s.draws s.env.fact s.env.gain)
            (F32.mul (s.draws + 2) (F32.sub (s.draws + 1) 0x3F800000 s.env.fact) s.env.tgt) →
      ∃ t : State,
        envSample s = (some (F32.mul (s.draws + 4) (convCode (smpCode s s.env.cursor.toNat)) g), t) ∧
        t = { s with env := t.env, draws := s.draws + 5 } ∧ t.env.cursor.toNat = s.env.cursor.toNat + 1 ∧
        (s.env.cursor.toNat + 1 = s.env.len.toNat →
          t.env = { s.env with gain := g, cursor := t.env.cursor, budget := 0, phase := .finished }) ∧
        (s.env.cursor.toNat + 1 < s.env.len.toNat → 2 ≤ s.env.budget.toNat →
          t.env = { s.env with gain := g, cursor := t.env.cursor, budget := t.env.budget } ∧
          t.env.budget.toNat = s.env.budget.toNat - 1) ∧
        (s.env.cursor.toNat + 1 < s.env.len.toNat → s.env.budget = 1 →
          t.env = envAdvance { s.env with gain := g, cursor := t.env.cursor, budget := 0 }))

/-- 42 R411, R421: the table of the phases with their order, budgets and targets; and ADVANCE goes to the next phase in the fixed order that has a budget, and each phase it skips jumps the
gain to that phase's target; with none left it finishes. -/
def Obligations.AdvanceSkipsPhasesWithoutBudget : Prop :=
  (∀ e : Env,
    (∀ q ∈ phaseTable e, phaseBudget e q.1 = q.2.1 ∧ phaseTarget e q.1 = q.2.2) ∧
    phasesAfter .ready = (phaseTable e).map Prod.fst ∧ phasesAfter .finished = [] ∧
    ∀ k, k < 5 → ∀ p, (phaseTable e)[k]?.map Prod.fst = some p → phasesAfter p = ((phaseTable e).drop (k + 1)).map Prod.fst) ∧
  ∀ e : Env,
    (∀ (skipped rest : List EnvPhase) (p : EnvPhase), phasesAfter e.phase = skipped ++ p :: rest →
      (∀ q ∈ skipped, phaseBudget e q = 0) → phaseBudget e p ≠ 0 →
      envAdvance e = { e with phase := p, budget := phaseBudget e p, tgt := phaseTarget e p,
                              fact := envFactor (phaseBudget e p).toNat,
                              gain := (skipped.getLast?.map (phaseTarget e)).getD e.gain }) ∧
    ((∀ q ∈ phasesAfter e.phase, phaseBudget e q = 0) →
      envAdvance e = { e with phase := .finished, budget := 0,
                              gain := ((phasesAfter e.phase).getLast?.map (phaseTarget e)).getD e.gain })

/-- 42 R410: FACTOR(n) is the binary32 datum nearest to the exact real `exp(ln(0.01)/(n+1))`, and +0.0 for n = 0. (The
rule's remark that FACTOR(n) lies in (0,1) holds of the exact value only; for very large n the nearest datum is 1.0,
log 11.) -/
def Obligations.FactorIsCorrectlyRounded : Prop :=
  envFactor 0 = 0 ∧
  ∀ n : Nat, 1 ≤ n →
    F32.isFinite (envFactor n) = true ∧ 0 < F32.value (envFactor n) ∧
    ∀ w : Word, F32.isFinite w = true →
      |Real.exp (Real.log (1 / 100) / (n + 1)) - ((F32.value (envFactor n) : ℚ) : ℝ)| ≤
        |Real.exp (Real.log (1 / 100) / (n + 1)) - ((F32.value w : ℚ) : ℝ)|

/-- 42 R451: an uninterrupted note whose attack, decay and release fit its buffer: it gives L samples, is in each phase
for exactly that phase's budget, never fades out, and ends Finished with nothing left. -/
def Obligations.FullNoteVisitsThePhasesInOrder : Prop :=
  ∀ s t : State, exec .envOn s = .next t →
    t.env.na.toNat + t.env.nd.toNat + t.env.nr.toNat ≤ t.env.len.toNat →
    (∀ k, k ≤ t.env.len.toNat → (envSamples k t).1.length = k) ∧
    (∀ k, 0 < k → k < t.env.len.toNat →
      (envSamples k t).2.env.phase =
        if k < t.env.na.toNat then .attack
        else if k < t.env.na.toNat + t.env.nd.toNat then .decay
        else if k < t.env.len.toNat - t.env.nr.toNat then .sustain
        else .release) ∧
    (0 < t.env.len.toNat → (envSamples t.env.len.toNat t).2.env.phase = .finished) ∧
    (envSamples t.env.len.toNat t).2.env.cursor = t.env.len

/-- 42 R452: a note-off in Sustain with a fade of NF samples and as many left in the buffer gives exactly NF samples in
Fadeout and then finishes, however many are asked for. -/
def Obligations.NoteOffFadesForItsBudget : Prop :=
  ∀ s : State, s.env.phase = .sustain → s.env.nf ≠ 0 →
    s.env.cursor.toNat + s.env.nf.toNat ≤ s.env.len.toNat →
    ∃ t : State, exec .envOff s = .next t ∧ t.env.phase = .fadeout ∧
      (∀ k, k < s.env.nf.toNat → (envSamples k t).1.length = k ∧ (envSamples k t).2.env.phase = .fadeout) ∧
      (∀ m, s.env.nf.toNat ≤ m →
        (envSamples m t).1.length = s.env.nf.toNat ∧ (envSamples m t).2.env.phase = .finished)

/-! ### Arithmetic -/

/-- 00_scope R15: a pattern's class and value are those of the binary32 format; each operation on finite data rounds its
exact result once, to nearest, ties to even, with the sign of a zero result; and what NaNs, infinities and a division by
zero give. `F32.eq` is the comparison and `F32.ofInt` the conversion of R15. That these are IEEE 754 binary32 is the
spec's own reading (93 I-IEEE). -/
def Obligations.ArithmeticRoundsToNearestEven : Prop :=
  (∀ w : Word,
    F32.sign w = w.getLsbD 31 ∧ F32.frac w = fracBits w ∧
    (F32.isNaN w = true ↔ expoBits w = 255 ∧ fracBits w ≠ 0) ∧ (F32.isInf w = true ↔ expoBits w = 255 ∧ fracBits w = 0) ∧
    (F32.isFinite w = true ↔ expoBits w ≠ 255) ∧ (F32.isFinite w = true → F32.value w = formatValue w)) ∧
  (∀ (q : Nat) (a b : Word), F32.isFinite a = true → F32.isFinite b = true →
    nearest (F32.value a + F32.value b) (F32.add q a b) ∧
    nearest (F32.value a - F32.value b) (F32.sub q a b) ∧
    nearest (F32.value a * F32.value b) (F32.mul q a b) ∧
    (F32.value b ≠ 0 → nearest (F32.value a / F32.value b) (F32.div q a b)) ∧
    (F32.value a + F32.value b = 0 → F32.add q a b = zero (F32.sign a && F32.sign b)) ∧
    (F32.value a - F32.value b = 0 → F32.sub q a b = zero (F32.sign a && !F32.sign b)) ∧
    F32.sign (F32.mul q a b) = (F32.sign a != F32.sign b) ∧
    (F32.value b ≠ 0 → F32.sign (F32.div q a b) = (F32.sign a != F32.sign b)) ∧
    (F32.value b = 0 → F32.value a ≠ 0 → F32.div q a b = infinity (F32.sign a != F32.sign b)) ∧
    (F32.value b = 0 → F32.value a = 0 → F32.isNaN (F32.div q a b) = true)) ∧
  (∀ (q : Nat) (a b : Word), F32.isNaN a = true ∨ F32.isNaN b = true →
    F32.isNaN (F32.add q a b) = true ∧ F32.isNaN (F32.sub q a b) = true ∧ F32.isNaN (F32.mul q a b) = true ∧
    F32.isNaN (F32.div q a b) = true ∧ F32.eq a b = false) ∧
  (∀ (q : Nat) (a b : Word), F32.isInf a = true → F32.isFinite b = true →
    F32.add q a b = a ∧ F32.add q b a = a ∧ F32.sub q a b = a ∧ F32.sub q b a = infinity (!F32.sign a) ∧
    (F32.value b ≠ 0 → F32.mul q a b = infinity (F32.sign a != F32.sign b) ∧
      F32.mul q b a = infinity (F32.sign a != F32.sign b)) ∧
    (F32.value b = 0 → F32.isNaN (F32.mul q a b) = true ∧ F32.isNaN (F32.mul q b a) = true) ∧
    F32.div q a b = infinity (F32.sign a != F32.sign b) ∧ F32.div q b a = zero (F32.sign a != F32.sign b)) ∧
  (∀ (q : Nat) (a b : Word), F32.isInf a = true → F32.isInf b = true →
    (F32.sign a = F32.sign b → F32.add q a b = a ∧ F32.isNaN (F32.sub q a b) = true) ∧
    (F32.sign a ≠ F32.sign b → F32.isNaN (F32.add q a b) = true ∧ F32.sub q a b = a) ∧
    F32.mul q a b = infinity (F32.sign a != F32.sign b) ∧ F32.isNaN (F32.div q a b) = true) ∧
  (∀ a b : Word, F32.isNaN a = false → F32.isNaN b = false →
    (F32.eq a b = true ↔ a = b ∨ (F32.isFinite a = true ∧ F32.isFinite b = true ∧ F32.value a = F32.value b))) ∧
  ∀ n : Int, nearest (n : ℚ) (F32.ofInt n) ∧ F32.sign (F32.ofInt n) = decide (n < 0)

/-- 42 R423: CONV: division by 32767 for non-negative codes and by 32768 for negative codes, one rounding; exact for
negative codes, 1.0, -1.0 and +0.0 at the codes named. -/
def Obligations.SampleCodesConvert : Prop :=
  (∀ c : Code, 0 ≤ c.toInt → nearest ((c.toInt : ℚ) / 32767) (convCode c)) ∧
  (∀ c : Code, c.toInt < 0 → F32.isFinite (convCode c) = true ∧ F32.value (convCode c) = (c.toInt : ℚ) / 32768) ∧
  convCode 0x7FFF = 0x3F800000 ∧ convCode 0x8000 = 0xBF800000 ∧ convCode 0 = 0

/-! ### The whole machine -/

/-- 10_state R94 with the register rules R53, R60 to R68, R70 to R75, R82 and 41 R353 and the canonical memory: every
step keeps it. -/
def Obligations.EveryStepKeepsTheInvariant : Prop :=
  ∀ s s' : State, State.Inv s → step s = .next s' → State.Inv s'

/-- The state after reset meets the invariant, for every instance. -/
def Obligations.ResetMeetsTheInvariant : Prop := State.Inv State.reset ∧ ∀ p : Params, State.Inv (State.resetOf p)

/-- 42 R450: Finished is terminal: there ENV_SAMPLE gives none and changes nothing, ENV_OFF has no effect, ENV_PLAY
writes no byte, and no command but ENV_ON leaves it (SRST resets it to Finished). -/
def Obligations.FinishedIsTerminal : Prop :=
  ∀ s : State, s.env.phase = .finished →
    envSample s = (none, s) ∧ exec .envOff s = .next s ∧
    (∀ t, exec .envPlay s = .next t → ∀ a, byteAt t a = byteAt s a) ∧
    (∀ (i : Instr) (t : State), i ≠ .envOn → exec i s = .next t → t.env.phase = .finished)

/-- 60 R532, R534: no command but SRST clears a flag; the first error wins; a command records its own opcode. -/
def Obligations.ErrorRecordAndStickyFlagsPersist : Prop :=
  ∀ (i : Instr) (s t : State), i ≠ .srst → exec i s = .next t →
    t.status.coll = s.status.coll ∧
    (s.status.unr = true → t.status.unr = true) ∧ (s.status.ovr = true → t.status.ovr = true) ∧
    (s.status.clamp = true → t.status.clamp = true) ∧ (s.status.errmult = true → t.status.errmult = true) ∧
    (s.status.err = true → t.status.err = true ∧ t.status.errcode = s.status.errcode ∧ t.status.erropc = s.status.erropc) ∧
    (s.status.err = false →
      t.status.errmult = s.status.errmult ∧
      ((t.status.err = false ∧ t.status.errcode = s.status.errcode ∧ t.status.erropc = s.status.erropc) ∨
        (t.status.err = true ∧ t.status.erropc = (encode i).extractLsb' 0 8 ∧
          2 ≤ t.status.errcode.toNat ∧ t.status.errcode.toNat ≤ 7)))

/-- 10_state R54, R60 to R75, R84, R85: which commands may write which registers: none writes ARG (SRST resets it), only
the six named ones write RES, and the units' registers only the commands of the unit (ENV_PLAY all three units'); no
command touches the instance's constants or starts another command (43 R502). -/
def Obligations.CommandsWriteOnlyTheirRegisters : Prop :=
  ∀ (i : Instr) (s t : State), exec i s = .next t →
    t.inst = s.inst ∧ t.pending = s.pending ∧ t.host = s.host ∧ t.rdata = s.rdata ∧ t.epoch = s.epoch ∧
    (i ≠ .srst → t.arg = s.arg) ∧ (i ≠ .srst → writesRes i = false → t.res = s.res) ∧
    (i ∉ [.srst, .rseInit, .rseDeinit, .rseApply, .rrcConfig, .envPlay] → t.rse = s.rse) ∧
    (i ∉ [.srst, .rseInit, .rseDeinit, .rrcConfig, .rrcNext, .envPlay] → t.rrc = s.rrc) ∧
    (i ∉ [.srst, .envOn, .envOff, .envSetadsr, .envSetfade, .envPlay] → t.env = s.env) ∧
    (i ∉ [.srst, .envSetadsr, .envSetfade] →
      t.env.atkP = s.env.atkP ∧ t.env.decP = s.env.decP ∧ t.env.relP = s.env.relP ∧ t.env.susP = s.env.susP ∧
      t.env.fadeP = s.env.fadeP) ∧
    (i ∉ [.srst, .envOn] →
      t.env.na = s.env.na ∧ t.env.nd = s.env.nd ∧ t.env.ns = s.env.ns ∧ t.env.nr = s.env.nr ∧ t.env.nf = s.env.nf ∧
      t.env.slvl = s.env.slvl ∧ t.env.len = s.env.len) ∧
    (i ≠ .srst → t.env.append = s.env.append ∧ t.env.smpv = s.env.smpv ∧ t.env.dstv = s.env.dstv ∧
      t.env.fs = s.env.fs ∧ t.env.slen = s.env.slen)

/-- 20 R152, R154, R155, R157: the windows that a command leaves as they are, element by element. SMP is written by no
command. -/
def Obligations.CommandsWriteOnlyTheirWindows : Prop :=
  ∀ (i : Instr) (s t : State) (w : Window), s.inst.legal = true → exec i s = .next t → writesWindow i w = false →
    (∀ j, readElem t w j = readElem s w j) ∧
    (∀ a, inWindow s.inst w a = true → byteAt t a = byteAt s a)
end

