-- ==== Sys2Proof/Laws/State.lean ====
section
/-! SUPPORT. One lemma per field of State for each named operation that updates it: the field's new value where the
operation writes it, else that it is unchanged. Later proofs cite these and unfold no record update. -/

namespace Sys2Proof.Machine

/-! ### writeBlock -/

@[simp] theorem writeBlock_inst (s : State) (w : Window) (i : Nat) (ws : List Word) : (writeBlock s w i ws).inst = s.inst := rfl
@[simp] theorem writeBlock_status (s : State) (w : Window) (i : Nat) (ws : List Word) : (writeBlock s w i ws).status = s.status := rfl
@[simp] theorem writeBlock_arg (s : State) (w : Window) (i : Nat) (ws : List Word) : (writeBlock s w i ws).arg = s.arg := rfl
@[simp] theorem writeBlock_res (s : State) (w : Window) (i : Nat) (ws : List Word) : (writeBlock s w i ws).res = s.res := rfl
@[simp] theorem writeBlock_rse (s : State) (w : Window) (i : Nat) (ws : List Word) : (writeBlock s w i ws).rse = s.rse := rfl
@[simp] theorem writeBlock_rrc (s : State) (w : Window) (i : Nat) (ws : List Word) : (writeBlock s w i ws).rrc = s.rrc := rfl
@[simp] theorem writeBlock_env (s : State) (w : Window) (i : Nat) (ws : List Word) : (writeBlock s w i ws).env = s.env := rfl
@[simp] theorem writeBlock_mem (s : State) (w : Window) (i : Nat) (ws : List Word) :
    (writeBlock s w i ws).mem = Memory.store s.mem (elemAddr w i) (bytesOfWords (ws.take (windowDepth s.inst w - i))) := rfl
@[simp] theorem writeBlock_pending (s : State) (w : Window) (i : Nat) (ws : List Word) : (writeBlock s w i ws).pending = s.pending := rfl
@[simp] theorem writeBlock_host (s : State) (w : Window) (i : Nat) (ws : List Word) : (writeBlock s w i ws).host = s.host := rfl
@[simp] theorem writeBlock_rdata (s : State) (w : Window) (i : Nat) (ws : List Word) : (writeBlock s w i ws).rdata = s.rdata := rfl
@[simp] theorem writeBlock_epoch (s : State) (w : Window) (i : Nat) (ws : List Word) : (writeBlock s w i ws).epoch = s.epoch := rfl
@[simp] theorem writeBlock_draws (s : State) (w : Window) (i : Nat) (ws : List Word) : (writeBlock s w i ws).draws = s.draws := rfl

/-! ### raiseError -/

@[simp] theorem raiseError_inst (code : ErrorCode) (opc : Byte) (s : State) : (raiseError code opc s).inst = s.inst := rfl
@[simp] theorem raiseError_status (code : ErrorCode) (opc : Byte) (s : State) :
    (raiseError code opc s).status = statusRecord s.status code opc := rfl
@[simp] theorem raiseError_arg (code : ErrorCode) (opc : Byte) (s : State) : (raiseError code opc s).arg = s.arg := rfl
@[simp] theorem raiseError_res (code : ErrorCode) (opc : Byte) (s : State) : (raiseError code opc s).res = s.res := rfl
@[simp] theorem raiseError_rse (code : ErrorCode) (opc : Byte) (s : State) : (raiseError code opc s).rse = s.rse := rfl
@[simp] theorem raiseError_rrc (code : ErrorCode) (opc : Byte) (s : State) : (raiseError code opc s).rrc = s.rrc := rfl
@[simp] theorem raiseError_env (code : ErrorCode) (opc : Byte) (s : State) : (raiseError code opc s).env = s.env := rfl
@[simp] theorem raiseError_mem (code : ErrorCode) (opc : Byte) (s : State) : (raiseError code opc s).mem = s.mem := rfl
@[simp] theorem raiseError_pending (code : ErrorCode) (opc : Byte) (s : State) : (raiseError code opc s).pending = s.pending := rfl
@[simp] theorem raiseError_host (code : ErrorCode) (opc : Byte) (s : State) : (raiseError code opc s).host = s.host := rfl
@[simp] theorem raiseError_rdata (code : ErrorCode) (opc : Byte) (s : State) : (raiseError code opc s).rdata = s.rdata := rfl
@[simp] theorem raiseError_epoch (code : ErrorCode) (opc : Byte) (s : State) : (raiseError code opc s).epoch = s.epoch := rfl
@[simp] theorem raiseError_draws (code : ErrorCode) (opc : Byte) (s : State) : (raiseError code opc s).draws = s.draws := rfl

/-! ### raiseIn -/

@[simp] theorem raiseIn_inst (code : ErrorCode) (i : Instr) (s : State) : (raiseIn code i s).inst = s.inst := rfl
@[simp] theorem raiseIn_status (code : ErrorCode) (i : Instr) (s : State) :
    (raiseIn code i s).status = statusRecord s.status code (opcodeOf (encode i)) := rfl
@[simp] theorem raiseIn_arg (code : ErrorCode) (i : Instr) (s : State) : (raiseIn code i s).arg = s.arg := rfl
@[simp] theorem raiseIn_res (code : ErrorCode) (i : Instr) (s : State) : (raiseIn code i s).res = s.res := rfl
@[simp] theorem raiseIn_rse (code : ErrorCode) (i : Instr) (s : State) : (raiseIn code i s).rse = s.rse := rfl
@[simp] theorem raiseIn_rrc (code : ErrorCode) (i : Instr) (s : State) : (raiseIn code i s).rrc = s.rrc := rfl
@[simp] theorem raiseIn_env (code : ErrorCode) (i : Instr) (s : State) : (raiseIn code i s).env = s.env := rfl
@[simp] theorem raiseIn_mem (code : ErrorCode) (i : Instr) (s : State) : (raiseIn code i s).mem = s.mem := rfl
@[simp] theorem raiseIn_pending (code : ErrorCode) (i : Instr) (s : State) : (raiseIn code i s).pending = s.pending := rfl
@[simp] theorem raiseIn_host (code : ErrorCode) (i : Instr) (s : State) : (raiseIn code i s).host = s.host := rfl
@[simp] theorem raiseIn_rdata (code : ErrorCode) (i : Instr) (s : State) : (raiseIn code i s).rdata = s.rdata := rfl
@[simp] theorem raiseIn_epoch (code : ErrorCode) (i : Instr) (s : State) : (raiseIn code i s).epoch = s.epoch := rfl
@[simp] theorem raiseIn_draws (code : ErrorCode) (i : Instr) (s : State) : (raiseIn code i s).draws = s.draws := rfl

/-! ### ackStatus -/

@[simp] theorem ackStatus_inst (w : Word) (s : State) : (ackStatus w s).inst = s.inst := rfl
@[simp] theorem ackStatus_status (w : Word) (s : State) :
    (ackStatus w s).status = statusClear s.status w := rfl
@[simp] theorem ackStatus_arg (w : Word) (s : State) : (ackStatus w s).arg = s.arg := rfl
@[simp] theorem ackStatus_res (w : Word) (s : State) : (ackStatus w s).res = s.res := rfl
@[simp] theorem ackStatus_rse (w : Word) (s : State) : (ackStatus w s).rse = s.rse := rfl
@[simp] theorem ackStatus_rrc (w : Word) (s : State) : (ackStatus w s).rrc = s.rrc := rfl
@[simp] theorem ackStatus_env (w : Word) (s : State) : (ackStatus w s).env = s.env := rfl
@[simp] theorem ackStatus_mem (w : Word) (s : State) : (ackStatus w s).mem = s.mem := rfl
@[simp] theorem ackStatus_pending (w : Word) (s : State) : (ackStatus w s).pending = s.pending := rfl
@[simp] theorem ackStatus_host (w : Word) (s : State) : (ackStatus w s).host = s.host := rfl
@[simp] theorem ackStatus_rdata (w : Word) (s : State) : (ackStatus w s).rdata = s.rdata := rfl
@[simp] theorem ackStatus_epoch (w : Word) (s : State) : (ackStatus w s).epoch = s.epoch := rfl
@[simp] theorem ackStatus_draws (w : Word) (s : State) : (ackStatus w s).draws = s.draws := rfl

/-! ### resetRegisters -/

@[simp] theorem resetRegisters_inst (s : State) : (resetRegisters s).inst = s.inst := rfl
@[simp] theorem resetRegisters_status (s : State) :
    (resetRegisters s).status = Status.zero := rfl
@[simp] theorem resetRegisters_arg (s : State) :
    (resetRegisters s).arg = ⟨0, 0, 0, 0⟩ := rfl
@[simp] theorem resetRegisters_res (s : State) :
    (resetRegisters s).res = ⟨0, 0, 0, 0⟩ := rfl
@[simp] theorem resetRegisters_rse (s : State) :
    (resetRegisters s).rse = Rse.zero := rfl
@[simp] theorem resetRegisters_rrc (s : State) :
    (resetRegisters s).rrc = Rrc.atReset := rfl
@[simp] theorem resetRegisters_env (s : State) :
    (resetRegisters s).env = Env.atReset := rfl
@[simp] theorem resetRegisters_mem (s : State) : (resetRegisters s).mem = s.mem := rfl
@[simp] theorem resetRegisters_pending (s : State) : (resetRegisters s).pending = s.pending := rfl
@[simp] theorem resetRegisters_host (s : State) : (resetRegisters s).host = s.host := rfl
@[simp] theorem resetRegisters_rdata (s : State) : (resetRegisters s).rdata = s.rdata := rfl
@[simp] theorem resetRegisters_epoch (s : State) : (resetRegisters s).epoch = s.epoch := rfl
@[simp] theorem resetRegisters_draws (s : State) : (resetRegisters s).draws = s.draws := rfl

/-! ### powerOnReset -/

@[simp] theorem powerOnReset_inst (s : State) : (powerOnReset s).inst = s.inst := rfl
@[simp] theorem powerOnReset_status (s : State) :
    (powerOnReset s).status = Status.zero := rfl
@[simp] theorem powerOnReset_arg (s : State) :
    (powerOnReset s).arg = ⟨0, 0, 0, 0⟩ := rfl
@[simp] theorem powerOnReset_res (s : State) :
    (powerOnReset s).res = ⟨0, 0, 0, 0⟩ := rfl
@[simp] theorem powerOnReset_rse (s : State) :
    (powerOnReset s).rse = Rse.zero := rfl
@[simp] theorem powerOnReset_rrc (s : State) :
    (powerOnReset s).rrc = Rrc.atReset := rfl
@[simp] theorem powerOnReset_env (s : State) :
    (powerOnReset s).env = Env.atReset := rfl
@[simp] theorem powerOnReset_mem (s : State) :
    (powerOnReset s).mem = [] := rfl
@[simp] theorem powerOnReset_pending (s : State) :
    (powerOnReset s).pending = none := rfl
@[simp] theorem powerOnReset_host (s : State) : (powerOnReset s).host = s.host := rfl
@[simp] theorem powerOnReset_rdata (s : State) :
    (powerOnReset s).rdata = 0 := rfl
@[simp] theorem powerOnReset_epoch (s : State) :
    (powerOnReset s).epoch = s.epoch + 1 := rfl
@[simp] theorem powerOnReset_draws (s : State) : (powerOnReset s).draws = s.draws := rfl

/-! ### tearDown -/

@[simp] theorem tearDown_inst (s : State) : (tearDown s).inst = s.inst := rfl
@[simp] theorem tearDown_status (s : State) : (tearDown s).status = s.status := rfl
@[simp] theorem tearDown_arg (s : State) : (tearDown s).arg = s.arg := rfl
@[simp] theorem tearDown_res (s : State) : (tearDown s).res = s.res := rfl
@[simp] theorem tearDown_rse (s : State) :
    (tearDown s).rse = Rse.zero := rfl
@[simp] theorem tearDown_rrc (s : State) :
    (tearDown s).rrc = invalidateRrc s.rrc := rfl
@[simp] theorem tearDown_env (s : State) : (tearDown s).env = s.env := rfl
@[simp] theorem tearDown_mem (s : State) : (tearDown s).mem = s.mem := rfl
@[simp] theorem tearDown_pending (s : State) : (tearDown s).pending = s.pending := rfl
@[simp] theorem tearDown_host (s : State) : (tearDown s).host = s.host := rfl
@[simp] theorem tearDown_rdata (s : State) : (tearDown s).rdata = s.rdata := rfl
@[simp] theorem tearDown_epoch (s : State) : (tearDown s).epoch = s.epoch := rfl
@[simp] theorem tearDown_draws (s : State) : (tearDown s).draws = s.draws := rfl

/-! ### failEngine -/

@[simp] theorem failEngine_inst (s : State) : (failEngine s).inst = s.inst := rfl
@[simp] theorem failEngine_status (s : State) : (failEngine s).status = s.status := rfl
@[simp] theorem failEngine_arg (s : State) : (failEngine s).arg = s.arg := rfl
@[simp] theorem failEngine_res (s : State) : (failEngine s).res = s.res := rfl
@[simp] theorem failEngine_rse (s : State) :
    (failEngine s).rse = { Rse.zero with mode := .failed } := rfl
@[simp] theorem failEngine_rrc (s : State) :
    (failEngine s).rrc = invalidateRrc s.rrc := rfl
@[simp] theorem failEngine_env (s : State) : (failEngine s).env = s.env := rfl
@[simp] theorem failEngine_mem (s : State) : (failEngine s).mem = s.mem := rfl
@[simp] theorem failEngine_pending (s : State) : (failEngine s).pending = s.pending := rfl
@[simp] theorem failEngine_host (s : State) : (failEngine s).host = s.host := rfl
@[simp] theorem failEngine_rdata (s : State) : (failEngine s).rdata = s.rdata := rfl
@[simp] theorem failEngine_epoch (s : State) : (failEngine s).epoch = s.epoch := rfl
@[simp] theorem failEngine_draws (s : State) : (failEngine s).draws = s.draws := rfl

/-! ### configureEngine -/

@[simp] theorem configureEngine_inst (s : State) (byp : Bool) (u d n klen phl h inmax offmax : Nat) : (configureEngine s byp u d n klen phl h inmax offmax).inst = s.inst := rfl
@[simp] theorem configureEngine_status (s : State) (byp : Bool) (u d n klen phl h inmax offmax : Nat) : (configureEngine s byp u d n klen phl h inmax offmax).status = s.status := rfl
@[simp] theorem configureEngine_arg (s : State) (byp : Bool) (u d n klen phl h inmax offmax : Nat) : (configureEngine s byp u d n klen phl h inmax offmax).arg = s.arg := rfl
@[simp] theorem configureEngine_res (s : State) (byp : Bool) (u d n klen phl h inmax offmax : Nat) : (configureEngine s byp u d n klen phl h inmax offmax).res = s.res := rfl
@[simp] theorem configureEngine_rrc (s : State) (byp : Bool) (u d n klen phl h inmax offmax : Nat) :
    (configureEngine s byp u d n klen phl h inmax offmax).rrc = invalidateRrc s.rrc := rfl
@[simp] theorem configureEngine_env (s : State) (byp : Bool) (u d n klen phl h inmax offmax : Nat) : (configureEngine s byp u d n klen phl h inmax offmax).env = s.env := rfl
@[simp] theorem configureEngine_mem (s : State) (byp : Bool) (u d n klen phl h inmax offmax : Nat) :
    (configureEngine s byp u d n klen phl h inmax offmax).mem = (writeBlock s .out 0 (List.replicate s.inst.capOut.toNat F32.zero)).mem := rfl
@[simp] theorem configureEngine_pending (s : State) (byp : Bool) (u d n klen phl h inmax offmax : Nat) : (configureEngine s byp u d n klen phl h inmax offmax).pending = s.pending := rfl
@[simp] theorem configureEngine_host (s : State) (byp : Bool) (u d n klen phl h inmax offmax : Nat) : (configureEngine s byp u d n klen phl h inmax offmax).host = s.host := rfl
@[simp] theorem configureEngine_rdata (s : State) (byp : Bool) (u d n klen phl h inmax offmax : Nat) : (configureEngine s byp u d n klen phl h inmax offmax).rdata = s.rdata := rfl
@[simp] theorem configureEngine_epoch (s : State) (byp : Bool) (u d n klen phl h inmax offmax : Nat) : (configureEngine s byp u d n klen phl h inmax offmax).epoch = s.epoch := rfl
@[simp] theorem configureEngine_draws (s : State) (byp : Bool) (u d n klen phl h inmax offmax : Nat) : (configureEngine s byp u d n klen phl h inmax offmax).draws = s.draws := rfl

/-! ### rrcPrepare -/

@[simp] theorem rrcPrepare_inst (upW downW : Word) (s : State) : (rrcPrepare upW downW s).inst = s.inst := rfl
@[simp] theorem rrcPrepare_status (upW downW : Word) (s : State) :
    (rrcPrepare upW downW s).status = statusClamp s.status (factorsClamped (operandS32 upW) (operandS32 downW)) := rfl
@[simp] theorem rrcPrepare_arg (upW downW : Word) (s : State) : (rrcPrepare upW downW s).arg = s.arg := rfl
@[simp] theorem rrcPrepare_res (upW downW : Word) (s : State) : (rrcPrepare upW downW s).res = s.res := rfl
@[simp] theorem rrcPrepare_rse (upW downW : Word) (s : State) : (rrcPrepare upW downW s).rse = s.rse := rfl
@[simp] theorem rrcPrepare_env (upW downW : Word) (s : State) : (rrcPrepare upW downW s).env = s.env := rfl
@[simp] theorem rrcPrepare_mem (upW downW : Word) (s : State) :
    (rrcPrepare upW downW s).mem = (writeBlock s .kmem 0 (selectedKernel s.inst s.draws (clampFactor (operandS32 upW)) (clampFactor (operandS32 downW)))).mem := rfl
@[simp] theorem rrcPrepare_pending (upW downW : Word) (s : State) : (rrcPrepare upW downW s).pending = s.pending := rfl
@[simp] theorem rrcPrepare_host (upW downW : Word) (s : State) : (rrcPrepare upW downW s).host = s.host := rfl
@[simp] theorem rrcPrepare_rdata (upW downW : Word) (s : State) : (rrcPrepare upW downW s).rdata = s.rdata := rfl
@[simp] theorem rrcPrepare_epoch (upW downW : Word) (s : State) : (rrcPrepare upW downW s).epoch = s.epoch := rfl

/-! ### rrcAdvance -/

@[simp] theorem rrcAdvance_inst (s : State) : (rrcAdvance s).inst = s.inst := rfl
@[simp] theorem rrcAdvance_status (s : State) : (rrcAdvance s).status = s.status := rfl
@[simp] theorem rrcAdvance_arg (s : State) : (rrcAdvance s).arg = s.arg := rfl
@[simp] theorem rrcAdvance_res (s : State) : (rrcAdvance s).res = s.res := rfl
@[simp] theorem rrcAdvance_rse (s : State) : (rrcAdvance s).rse = s.rse := rfl
@[simp] theorem rrcAdvance_rrc (s : State) :
    (rrcAdvance s).rrc = { s.rrc with cur := resultU32 ((s.rrc.cur.toNat + 1) % s.rrc.cyc.toNat) } := rfl
@[simp] theorem rrcAdvance_env (s : State) : (rrcAdvance s).env = s.env := rfl
@[simp] theorem rrcAdvance_mem (s : State) : (rrcAdvance s).mem = s.mem := rfl
@[simp] theorem rrcAdvance_pending (s : State) : (rrcAdvance s).pending = s.pending := rfl
@[simp] theorem rrcAdvance_host (s : State) : (rrcAdvance s).host = s.host := rfl
@[simp] theorem rrcAdvance_rdata (s : State) : (rrcAdvance s).rdata = s.rdata := rfl
@[simp] theorem rrcAdvance_epoch (s : State) : (rrcAdvance s).epoch = s.epoch := rfl
@[simp] theorem rrcAdvance_draws (s : State) : (rrcAdvance s).draws = s.draws := rfl

/-! ### applyFilter -/

@[simp] theorem applyFilter_inst (numIn : Nat) (s : State) : (applyFilter numIn s).inst = s.inst := rfl
@[simp] theorem applyFilter_arg (numIn : Nat) (s : State) : (applyFilter numIn s).arg = s.arg := rfl
@[simp] theorem applyFilter_res (numIn : Nat) (s : State) : (applyFilter numIn s).res = s.res := rfl
@[simp] theorem applyFilter_rse (numIn : Nat) (s : State) :
    (applyFilter numIn s).rse = applyEngine s.rse (readBlock s .inp 0 numIn) (keptOutputs s.draws s.rse (readBlock s .inp 0 numIn)) := rfl
@[simp] theorem applyFilter_rrc (numIn : Nat) (s : State) : (applyFilter numIn s).rrc = s.rrc := rfl
@[simp] theorem applyFilter_env (numIn : Nat) (s : State) : (applyFilter numIn s).env = s.env := rfl
@[simp] theorem applyFilter_pending (numIn : Nat) (s : State) : (applyFilter numIn s).pending = s.pending := rfl
@[simp] theorem applyFilter_host (numIn : Nat) (s : State) : (applyFilter numIn s).host = s.host := rfl
@[simp] theorem applyFilter_rdata (numIn : Nat) (s : State) : (applyFilter numIn s).rdata = s.rdata := rfl
@[simp] theorem applyFilter_epoch (numIn : Nat) (s : State) : (applyFilter numIn s).epoch = s.epoch := rfl
@[simp] theorem applyFilter_draws (numIn : Nat) (s : State) :
    (applyFilter numIn s).draws = s.draws + 2 * s.rse.phl.toNat * keptCount s.rse numIn := rfl

/-! ### applyBypass -/

@[simp] theorem applyBypass_inst (numIn : Nat) (s : State) : (applyBypass numIn s).inst = s.inst := rfl
@[simp] theorem applyBypass_status (numIn : Nat) (s : State) : (applyBypass numIn s).status = s.status := rfl
@[simp] theorem applyBypass_arg (numIn : Nat) (s : State) : (applyBypass numIn s).arg = s.arg := rfl
@[simp] theorem applyBypass_res (numIn : Nat) (s : State) : (applyBypass numIn s).res = s.res := rfl
@[simp] theorem applyBypass_rse (numIn : Nat) (s : State) :
    (applyBypass numIn s).rse = { s.rse with outcnt := resultU32 numIn } := rfl
@[simp] theorem applyBypass_rrc (numIn : Nat) (s : State) : (applyBypass numIn s).rrc = s.rrc := rfl
@[simp] theorem applyBypass_env (numIn : Nat) (s : State) : (applyBypass numIn s).env = s.env := rfl
@[simp] theorem applyBypass_mem (numIn : Nat) (s : State) :
    (applyBypass numIn s).mem = (writeBlock s .out 0 (readBlock s .inp 0 numIn)).mem := rfl
@[simp] theorem applyBypass_pending (numIn : Nat) (s : State) : (applyBypass numIn s).pending = s.pending := rfl
@[simp] theorem applyBypass_host (numIn : Nat) (s : State) : (applyBypass numIn s).host = s.host := rfl
@[simp] theorem applyBypass_rdata (numIn : Nat) (s : State) : (applyBypass numIn s).rdata = s.rdata := rfl
@[simp] theorem applyBypass_epoch (numIn : Nat) (s : State) : (applyBypass numIn s).epoch = s.epoch := rfl
@[simp] theorem applyBypass_draws (numIn : Nat) (s : State) : (applyBypass numIn s).draws = s.draws := rfl

/-! ### writeSamples -/

@[simp] theorem writeSamples_inst (xs : List Word) (s : State) : (writeSamples xs s).inst = s.inst := rfl
@[simp] theorem writeSamples_status (xs : List Word) (s : State) : (writeSamples xs s).status = s.status := rfl
@[simp] theorem writeSamples_arg (xs : List Word) (s : State) : (writeSamples xs s).arg = s.arg := rfl
@[simp] theorem writeSamples_res (xs : List Word) (s : State) : (writeSamples xs s).res = s.res := rfl
@[simp] theorem writeSamples_rse (xs : List Word) (s : State) : (writeSamples xs s).rse = s.rse := rfl
@[simp] theorem writeSamples_rrc (xs : List Word) (s : State) : (writeSamples xs s).rrc = s.rrc := rfl
@[simp] theorem writeSamples_env (xs : List Word) (s : State) : (writeSamples xs s).env = s.env := rfl
@[simp] theorem writeSamples_pending (xs : List Word) (s : State) : (writeSamples xs s).pending = s.pending := rfl
@[simp] theorem writeSamples_host (xs : List Word) (s : State) : (writeSamples xs s).host = s.host := rfl
@[simp] theorem writeSamples_rdata (xs : List Word) (s : State) : (writeSamples xs s).rdata = s.rdata := rfl
@[simp] theorem writeSamples_epoch (xs : List Word) (s : State) : (writeSamples xs s).epoch = s.epoch := rfl
@[simp] theorem writeSamples_draws (xs : List Word) (s : State) :
    (writeSamples xs s).draws = s.draws + xs.length := rfl

/-! ### acceptCommand -/

@[simp] theorem acceptCommand_inst (w : Word) (lat : Nat) (s : State) : (acceptCommand w lat s).inst = s.inst := rfl
@[simp] theorem acceptCommand_status (w : Word) (lat : Nat) (s : State) : (acceptCommand w lat s).status = s.status := rfl
@[simp] theorem acceptCommand_arg (w : Word) (lat : Nat) (s : State) : (acceptCommand w lat s).arg = s.arg := rfl
@[simp] theorem acceptCommand_res (w : Word) (lat : Nat) (s : State) : (acceptCommand w lat s).res = s.res := rfl
@[simp] theorem acceptCommand_rse (w : Word) (lat : Nat) (s : State) : (acceptCommand w lat s).rse = s.rse := rfl
@[simp] theorem acceptCommand_rrc (w : Word) (lat : Nat) (s : State) : (acceptCommand w lat s).rrc = s.rrc := rfl
@[simp] theorem acceptCommand_env (w : Word) (lat : Nat) (s : State) : (acceptCommand w lat s).env = s.env := rfl
@[simp] theorem acceptCommand_mem (w : Word) (lat : Nat) (s : State) : (acceptCommand w lat s).mem = s.mem := rfl
@[simp] theorem acceptCommand_pending (w : Word) (lat : Nat) (s : State) :
    (acceptCommand w lat s).pending = some { word := w, left := lat } := rfl
@[simp] theorem acceptCommand_host (w : Word) (lat : Nat) (s : State) : (acceptCommand w lat s).host = s.host := rfl
@[simp] theorem acceptCommand_rdata (w : Word) (lat : Nat) (s : State) : (acceptCommand w lat s).rdata = s.rdata := rfl
@[simp] theorem acceptCommand_epoch (w : Word) (lat : Nat) (s : State) : (acceptCommand w lat s).epoch = s.epoch := rfl
@[simp] theorem acceptCommand_draws (w : Word) (lat : Nat) (s : State) : (acceptCommand w lat s).draws = s.draws := rfl

/-! ### takeCycle -/

@[simp] theorem takeCycle_inst (s : State) : (takeCycle s).inst = s.inst := rfl
@[simp] theorem takeCycle_status (s : State) : (takeCycle s).status = s.status := rfl
@[simp] theorem takeCycle_arg (s : State) : (takeCycle s).arg = s.arg := rfl
@[simp] theorem takeCycle_res (s : State) : (takeCycle s).res = s.res := rfl
@[simp] theorem takeCycle_rse (s : State) : (takeCycle s).rse = s.rse := rfl
@[simp] theorem takeCycle_rrc (s : State) : (takeCycle s).rrc = s.rrc := rfl
@[simp] theorem takeCycle_env (s : State) : (takeCycle s).env = s.env := rfl
@[simp] theorem takeCycle_mem (s : State) : (takeCycle s).mem = s.mem := rfl
@[simp] theorem takeCycle_pending (s : State) : (takeCycle s).pending = s.pending := rfl
@[simp] theorem takeCycle_host (s : State) :
    (takeCycle s).host = s.host.tail := rfl
@[simp] theorem takeCycle_rdata (s : State) : (takeCycle s).rdata = s.rdata := rfl
@[simp] theorem takeCycle_epoch (s : State) : (takeCycle s).epoch = s.epoch := rfl
@[simp] theorem takeCycle_draws (s : State) : (takeCycle s).draws = s.draws := rfl

/-! ### withCommand -/

@[simp] theorem withCommand_inst (w : Word) (s : State) : (withCommand w s).inst = s.inst := rfl
@[simp] theorem withCommand_status (w : Word) (s : State) : (withCommand w s).status = s.status := rfl
@[simp] theorem withCommand_arg (w : Word) (s : State) : (withCommand w s).arg = s.arg := rfl
@[simp] theorem withCommand_res (w : Word) (s : State) : (withCommand w s).res = s.res := rfl
@[simp] theorem withCommand_rse (w : Word) (s : State) : (withCommand w s).rse = s.rse := rfl
@[simp] theorem withCommand_rrc (w : Word) (s : State) : (withCommand w s).rrc = s.rrc := rfl
@[simp] theorem withCommand_env (w : Word) (s : State) : (withCommand w s).env = s.env := rfl
@[simp] theorem withCommand_mem (w : Word) (s : State) : (withCommand w s).mem = s.mem := rfl
@[simp] theorem withCommand_pending (w : Word) (s : State) :
    (withCommand w s).pending = some { word := w, left := 1 } := rfl
@[simp] theorem withCommand_host (w : Word) (s : State) :
    (withCommand w s).host = { rst := false, bus := .idle } :: s.host := rfl
@[simp] theorem withCommand_rdata (w : Word) (s : State) : (withCommand w s).rdata = s.rdata := rfl
@[simp] theorem withCommand_epoch (w : Word) (s : State) : (withCommand w s).epoch = s.epoch := rfl
@[simp] theorem withCommand_draws (w : Word) (s : State) : (withCommand w s).draws = s.draws := rfl

end Sys2Proof.Machine
end

