-- ==== Sys2Proof/Laws/Memory.lean ====
section
/-! SUPPORT. Memory: what a read finds after a store, and that every memory operation keeps the canonical form. -/

namespace Sys2Proof.Machine

/-! ### Lists of cells -/

/-- The canonical form says that the offsets rise pairwise. -/
theorem Memory.wf_iff_pairwise (m : List Host.Cell) : Memory.wf m = true ↔ m.Pairwise (fun c c' => c.1 < c'.1) := by
  rw [← List.isChain_iff_pairwise (R := fun c c' : Host.Cell => c.1 < c'.1)
    (l := m)]
  induction m with
  | nil => simp [Memory.wf]
  | cons c rest ih =>
    cases rest with
    | nil => simp [Memory.wf]
    | cons c' rest' => simp only [Memory.wf, Bool.and_eq_true, decide_eq_true_eq, ih, List.isChain_cons_cons]

theorem Memory.lookup_append (m m' : List Host.Cell) (a : Nat) :
    Memory.lookup (m ++ m') a = (Memory.lookup m a).or (Memory.lookup m' a) := by
  induction m with
  | nil => simp [Memory.lookup]
  | cons c rest ih => by_cases h : c.1 = a <;> simp [Memory.lookup, h, ih]

theorem Memory.lookup_filter (q : Nat → Bool) (m : List Host.Cell) (a : Nat) :
    Memory.lookup (m.filter (fun c => q c.1)) a = if q a then Memory.lookup m a else none := by
  induction m with
  | nil => simp [Memory.lookup]
  | cons c rest ih =>
    by_cases hq : q c.1 <;> by_cases ha : c.1 = a
    · subst ha; simp [Memory.lookup, hq]
    · simp [Memory.lookup, hq, ha, ih]
    · subst ha; simp [hq, ih]
    · simp [Memory.lookup, hq, ha, ih]

theorem cellsOf_length (b : Nat) (bs : List Byte) : (cellsOf b bs).length = bs.length := by
  induction bs generalizing b with
  | nil => rfl
  | cons x xs ih => simp [cellsOf, ih]

theorem lookup_cellsOf_below (b a : Nat) (bs : List Byte) (h : a < b) : Memory.lookup (cellsOf b bs) a = none := by
  induction bs generalizing b with
  | nil => rfl
  | cons x xs ih => simp [cellsOf, Memory.lookup, ih (b + 1) (by omega)]; omega

theorem lookup_cellsOf (b k : Nat) (bs : List Byte) : Memory.lookup (cellsOf b bs) (b + k) = bs[k]? := by
  induction bs generalizing b k with
  | nil => simp [cellsOf, Memory.lookup]
  | cons x xs ih =>
    cases k with
    | zero => simp [cellsOf, Memory.lookup]
    | succ k =>
      have := ih (b + 1) k
      simp only [cellsOf, Memory.lookup, List.getElem?_cons_succ]
      rw [if_neg (by omega), ← this]
      congr 1; omega

/-- A byte outside the stored run reads as before. -/
theorem Memory.lookup_store_outside (m : List Host.Cell) (b : Nat) (bs : List Byte) (a : Nat)
    (h : a < b ∨ b + bs.length ≤ a) : Memory.lookup (Memory.store m b bs) a = Memory.lookup m a := by
  unfold Memory.store
  rw [Memory.lookup_append, Memory.lookup_append, Memory.lookup_filter (fun x => decide (x < b)),
    Memory.lookup_filter (fun x => decide (b + bs.length ≤ x))]
  rcases h with h | h
  · rw [lookup_cellsOf_below b a bs h]
    simp [h, show ¬ b + bs.length ≤ a by omega]
  · have : Memory.lookup (cellsOf b bs) a = none := by
      obtain ⟨k, rfl⟩ := Nat.exists_eq_add_of_le (show b ≤ a by omega)
      rw [lookup_cellsOf]; simp; omega
    simp [this, h, show ¬ a < b by omega]

/-- A byte of the stored run reads as stored. -/
theorem Memory.lookup_store_inside (m : List Host.Cell) (b : Nat) (bs : List Byte) (k : Nat) (h : k < bs.length) :
    Memory.lookup (Memory.store m b bs) (b + k) = bs[k]? := by
  unfold Memory.store
  rw [Memory.lookup_append, Memory.lookup_append, Memory.lookup_filter (fun x => decide (x < b)),
    Memory.lookup_filter (fun x => decide (b + bs.length ≤ x)), lookup_cellsOf]
  simp [h, show ¬ b + bs.length ≤ b + k by omega]

theorem pairwise_cellsOf (b : Nat) (bs : List Byte) : (cellsOf b bs).Pairwise (fun c c' => c.1 < c'.1) := by
  induction bs generalizing b with
  | nil => simp [cellsOf]
  | cons x xs ih =>
    refine List.pairwise_cons.2 ⟨fun c hc => ?_, ih (b + 1)⟩
    have : ∀ (b' : Nat) (ys : List Byte), ∀ c ∈ cellsOf b' ys, b' ≤ c.1 := by
      intro b' ys
      induction ys generalizing b' with
      | nil => simp [cellsOf]
      | cons y ys ih' =>
        intro c hc
        rcases List.mem_cons.1 hc with rfl | hc
        · exact Nat.le_refl _
        · have := ih' (b' + 1) c hc; omega
    exact this (b + 1) xs c hc

theorem mem_cellsOf (b : Nat) (bs : List Byte) (c : Host.Cell) (h : c ∈ cellsOf b bs) :
    b ≤ c.1 ∧ c.1 < b + bs.length := by
  induction bs generalizing b with
  | nil => simp [cellsOf] at h
  | cons y ys ih =>
    rcases List.mem_cons.1 h with rfl | h
    · simp
    · have := ih (b + 1) h; simp; omega

/-- A store keeps the canonical form. -/
theorem Memory.wf_store (m : List Host.Cell) (b : Nat) (bs : List Byte) (h : Memory.wf m = true) :
    Memory.wf (Memory.store m b bs) = true := by
  rw [Memory.wf_iff_pairwise] at h ⊢
  unfold Memory.store
  rw [List.pairwise_append, List.pairwise_append]
  refine ⟨⟨h.filter _, pairwise_cellsOf b bs, ?_⟩, h.filter _, ?_⟩
  · intro c hc c' hc'
    have h1 := (List.mem_filter.1 hc).2
    have h2 := mem_cellsOf b bs c' hc'
    simp at h1; omega
  · intro c hc c' hc'
    have h3 := (List.mem_filter.1 hc').2
    rcases List.mem_append.1 hc with hc | hc
    · have h1 := (List.mem_filter.1 hc).2
      simp at h1 h3; omega
    · have h2 := mem_cellsOf b bs c hc
      simp at h3; omega

/-- A cell of memory after a store is an old cell or one of the stored run. -/
theorem Memory.mem_store (m : List Host.Cell) (b : Nat) (bs : List Byte) (c : Host.Cell) (h : c ∈ Memory.store m b bs) :
    c ∈ m ∨ (b ≤ c.1 ∧ c.1 < b + bs.length) := by
  unfold Memory.store at h
  rcases List.mem_append.1 h with h | h
  · rcases List.mem_append.1 h with h | h
    · exact .inl (List.mem_filter.1 h).1
    · exact .inr (mem_cellsOf b bs c h)
  · exact .inl (List.mem_filter.1 h).1

/-! ### Bytes and words of a state -/

@[simp] theorem bytesOfWords_length (ws : List Word) : (bytesOfWords ws).length = 4 * ws.length := by
  induction ws with
  | nil => rfl
  | cons w ws ih =>
    have : bytesOfWords (w :: ws) = bytesOfWord w ++ bytesOfWords ws := rfl
    rw [this, List.length_append, ih]; simp [bytesOfWord]; omega

/-- The bytes of a word put together again are the word (20_memory R160). -/
theorem wordOfBytes_bytes (w : Word) :
    wordOfBytes (w.extractLsb' 0 8) (w.extractLsb' 8 8) (w.extractLsb' 16 8) (w.extractLsb' 24 8) = w := by
  apply BitVec.eq_of_getLsbD_eq
  intro i hi
  simp only [wordOfBytes, BitVec.getLsbD_append, BitVec.getLsbD_extractLsb']
  interval_cases i <;> rfl

/-- The bytes of a code put together again are the code (R159). -/
theorem codeOfBytes_bytes (c : Code) : codeOfBytes (c.extractLsb' 0 8) (c.extractLsb' 8 8) = c := by
  apply BitVec.eq_of_getLsbD_eq
  intro i hi
  simp only [codeOfBytes, BitVec.getLsbD_append, BitVec.getLsbD_extractLsb']
  interval_cases i <;> rfl

end Sys2Proof.Machine
end

