-- ==== Sys2Proof/Laws/Windows.lean ====
section
/-! SUPPORT. Windows: what an element reads after a block of words is written, in its own window and in another, and
that window writes keep the memory good. -/

namespace Sys2Proof.Machine

/-- Byte `j` of word `k` of a run. -/
theorem bytesOfWords_getElem? (ws : List Word) (k j : Nat) (hj : j < 4) :
    (bytesOfWords ws)[4 * k + j]? = ws[k]?.bind (fun w => (bytesOfWord w)[j]?) := by
  induction ws generalizing k with
  | nil => simp [bytesOfWords]
  | cons w ws ih =>
    have hcons : bytesOfWords (w :: ws) = bytesOfWord w ++ bytesOfWords ws := rfl
    rw [hcons]
    have hlen : (bytesOfWord w).length = 4 := rfl
    cases k with
    | zero => rw [List.getElem?_append_left (by omega)]; simp
    | succ k =>
      rw [List.getElem?_append_right (by omega), hlen, show 4 * (k + 1) + j - 4 = 4 * k + j by omega, ih]
      simp

/-- A byte outside the elements written reads as before. -/
theorem byteAt_writeBlock_outside (s : State) (w : Window) (i : Nat) (ws : List Word) (a : Nat)
    (h : a < elemAddr w i ∨ elemAddr w i + 4 * Nat.min ws.length (windowDepth s.inst w - i) ≤ a) :
    byteAt (writeBlock s w i ws) a = byteAt s a := by
  unfold byteAt
  rw [writeBlock_mem, writeBlock_epoch, Memory.lookup_store_outside]
  rw [bytesOfWords_length, List.length_take]
  simp only [min_def] at h ⊢
  split <;> split at h <;> omega

/-- The word at an element written is the word written. -/
theorem wordAt_writeBlock_inside (s : State) (w : Window) (i k : Nat) (ws : List Word) (hk : k < ws.length)
    (hd : i + k < windowDepth s.inst w) : wordAt (writeBlock s w i ws) (elemAddr w (i + k)) = ws[k] := by
  have hb : ∀ j, j < 4 → Memory.lookup (writeBlock s w i ws).mem (elemAddr w (i + k) + j) = (bytesOfWord ws[k])[j]? := by
    intro j hj
    rw [writeBlock_mem, show elemAddr w (i + k) + j = elemAddr w i + (4 * k + j) by unfold elemAddr; omega,
      Memory.lookup_store_inside _ _ _ _ (by rw [bytesOfWords_length, List.length_take]; omega),
      bytesOfWords_getElem? _ _ _ hj]
    simp [show k < windowDepth s.inst w - i by omega, hk]
  have h0 := hb 0 (by omega); have h1 := hb 1 (by omega); have h2 := hb 2 (by omega); have h3 := hb 3 (by omega)
  simp only [Nat.add_zero] at h0
  unfold wordAt byteAt
  rw [h0, h1, h2, h3]
  exact wordOfBytes_bytes ws[k]

/-- An element depends on the instance, the memory and the power-on epoch alone. -/
theorem readElem_congr (s t : State) (hi : t.inst = s.inst) (hm : t.mem = s.mem) (he : t.epoch = s.epoch) (w : Window)
    (i : Nat) : readElem t w i = readElem s w i := by
  cases w <;> simp [readElem, smpCode, wordAt, codeAt, byteAt, hi, hm, he]

/-- An element whose four bytes read as before reads as before. -/
theorem readElem_eq_of_bytes (s t : State) (w : Window) (j : Nat) (hi : t.inst = s.inst)
    (h : ∀ a, elemAddr w j ≤ a → a < elemAddr w j + 4 → byteAt t a = byteAt s a) : readElem t w j = readElem s w j := by
  have h0 := h (elemAddr w j) (by omega) (by omega)
  have h1 := h (elemAddr w j + 1) (by omega) (by omega)
  have h2 := h (elemAddr w j + 2) (by omega) (by omega)
  have h3 := h (elemAddr w j + 3) (by omega) (by omega)
  cases w <;> simp [readElem, smpCode, wordAt, codeAt, hi, h0, h1, h2, h3]

/-- An element written reads the word written. -/
theorem readElem_writeBlock_inside (s : State) (w : Window) (hw : w ≠ .smp) (i k : Nat) (ws : List Word)
    (hk : k < ws.length) (hd : i + k < windowDepth s.inst w) : readElem (writeBlock s w i ws) w (i + k) = ws[k] := by
  cases w <;> first
    | exact absurd rfl hw
    | (exact (if_pos hd).trans (wordAt_writeBlock_inside s _ i k ws hk hd))

/-- An element of the window that was not written reads as before. -/
theorem readElem_writeBlock_outside (s : State) (w : Window) (i j : Nat) (ws : List Word)
    (h : j < i ∨ i + ws.length ≤ j ∨ windowDepth s.inst w ≤ j) :
    readElem (writeBlock s w i ws) w j = readElem s w j := by
  by_cases hj : j < windowDepth s.inst w
  · refine readElem_eq_of_bytes _ _ _ _ rfl fun a ha ha' => byteAt_writeBlock_outside _ _ _ _ _ ?_
    unfold elemAddr at *
    simp only [Nat.min_def]
    split <;> omega
  · cases w <;> simp [readElem, smpCode, hj]

/-- The windows of a legal instance lie apart (20_memory R163). -/
theorem window_ranges (p : Params) (hp : p.legal = true) (w : Window) :
    windowBase w + 4 * windowDepth p w ≤
      (match w with | .kmem => 0x2000 | .inp => 0x8000 | .out => 0xC000 | .dst => 0x10000 | .smp => 0x4010000) := by
  simp only [Params.legal, Params.kmaxLegal, Params.histLegal, Params.inLegal, Params.outLegal, Params.dstLegal,
    Params.smpLegal, Bool.and_eq_true, decide_eq_true_eq] at hp
  cases w <;> simp only [windowBase, windowDepth] <;> omega

/-- An element of another window reads as before. -/
theorem readElem_writeBlock_other (s : State) (hp : s.inst.legal = true) (w w' : Window) (hw : w ≠ w') (i j : Nat)
    (ws : List Word) : readElem (writeBlock s w i ws) w' j = readElem s w' j := by
  by_cases hj : j < windowDepth s.inst w'
  · refine readElem_eq_of_bytes _ _ _ _ rfl fun a ha ha' => ?_
    by_cases hi : i ≤ windowDepth s.inst w
    · refine byteAt_writeBlock_outside _ _ _ _ _ ?_
      have h1 := window_ranges s.inst hp w
      have h2 := window_ranges s.inst hp w'
      unfold elemAddr at *
      have hm : Nat.min ws.length (windowDepth s.inst w - i) ≤ windowDepth s.inst w - i := Nat.min_le_right _ _
      cases w <;> cases w' <;> first
        | exact absurd rfl hw
        | (simp only [windowBase] at *; omega)
    · have hz : windowDepth s.inst w - i = 0 := by omega
      have : (writeBlock s w i ws).mem = Memory.store s.mem (elemAddr w i) [] := by
        rw [writeBlock_mem, hz]; rfl
      unfold byteAt
      rw [this, writeBlock_epoch, Memory.lookup_store_outside]
      simp; omega
  · cases w' <;> simp [readElem, smpCode, hj]

/-- What a block of elements holds. -/
theorem readBlock_getElem? (s : State) (w : Window) (i count k : Nat) (hk : k < count) :
    (readBlock s w i count)[k]? = some (readElem s w (i + k)) := by
  simp [readBlock, hk]

@[simp] theorem readBlock_length (s : State) (w : Window) (i count : Nat) : (readBlock s w i count).length = count := by
  simp [readBlock]

/-- A block write keeps the memory good. -/
theorem memoryGood_writeBlock (s : State) (w : Window) (i : Nat) (ws : List Word) (h : memoryGood s) :
    memoryGood (writeBlock s w i ws) := by
  refine ⟨by rw [writeBlock_mem]; exact Memory.wf_store _ _ _ h.1, ?_⟩
  rw [List.all_eq_true]
  intro c hc
  rw [writeBlock_mem] at hc
  rcases Memory.mem_store _ _ _ _ hc with hc | ⟨h1, h2⟩
  · exact List.all_eq_true.1 h.2 c hc
  · rw [bytesOfWords_length, List.length_take] at h2
    have : inWindow s.inst w c.1 = true := by
      unfold elemAddr at *
      simp only [inWindow, Bool.and_eq_true, decide_eq_true_eq]
      rw [min_def] at h2
      split at h2 <;> omega
    cases w <;> simp [inSomeWindow, this]

/-- A write of one element keeps the memory good. -/
theorem memoryGood_writeElem (s : State) (w : Window) (i : Nat) (v : Word) (h : memoryGood s) :
    memoryGood (writeElem s w i v) := by
  cases w
  case smp =>
    simp only [writeElem]
    split
    · rename_i hi
      refine ⟨Memory.wf_store _ _ _ h.1, ?_⟩
      rw [List.all_eq_true]
      intro c hc
      rcases Memory.mem_store _ _ _ _ hc with hc | ⟨h1, h2⟩
      · exact List.all_eq_true.1 h.2 c hc
      · have : inWindow s.inst .smp c.1 = true := by
          unfold elemAddr at *
          simp only [inWindow, Bool.and_eq_true, decide_eq_true_eq]
          simp only [bytesOfCode, List.length_cons, List.length_nil] at h2
          omega
        simp [inSomeWindow, this]
    · exact h
  all_goals exact memoryGood_writeBlock _ _ _ _ h

end Sys2Proof.Machine
end

