-- ==== Sys2Proof/Laws/Operations.lean ====
section
/-! SUPPORT. For each shared operation one lemma that says all it can do; the statements' proofs cite these instead of
unfolding the operation. -/

namespace Sys2Proof.Machine

/-! ### The error record -/

/-- RECORD writes the record when there is none, else it sets ERRMULT (60 R532). -/
theorem statusRecord_cases (st : Status) (code : ErrorCode) (opc : Byte) :
    (st.err = false ∧ statusRecord st code opc = { st with err := true, errcode := errorCodeByte code, erropc := opc }) ∨
    (st.err = true ∧ statusRecord st code opc = { st with errmult := true }) := by
  unfold statusRecord
  cases h : st.err <;> simp

/-- The codes of R531 are 1 to 7. -/
theorem errorCodeByte_range (c : ErrorCode) : 1 ≤ (errorCodeByte c).toNat ∧ (errorCodeByte c).toNat ≤ 7 := by
  cases c <;> decide

/-! ### Initialisation -/

/-- The three ends of `ENGINE_INIT` (40 R261) with their guards: bypass, filter, failure. -/
theorem engineInit_cases (up down n klen : Nat) (s : State) :
    (klen ≤ s.inst.capKmax.toNat ∧ (reduce up down).1 = 1 ∧ (reduce up down).2 = 1 ∧ identKernel s klen = true ∧
      n ≤ s.inst.capIn.toNat ∧ n ≤ s.inst.capOut.toNat ∧
      engineInit up down n klen s =
        .ok (configureEngine s true (reduce up down).1 (reduce up down).2 n klen 0 0 n 0)) ∨
    (klen ≤ s.inst.capKmax.toNat ∧ ¬((reduce up down).1 = 1 ∧ (reduce up down).2 = 1 ∧ identKernel s klen = true) ∧
      ceilDiv klen (reduce up down).1 * (reduce up down).1 - 1 ≤ s.inst.capHist.toNat ∧
      ceilDiv (n * (reduce up down).2) (reduce up down).1 ≤ s.inst.capIn.toNat ∧
      n + ceilDiv (reduce up down).1 (reduce up down).2 ≤ s.inst.capOut.toNat ∧
      engineInit up down n klen s =
        .ok (configureEngine s false (reduce up down).1 (reduce up down).2 n klen (ceilDiv klen (reduce up down).1)
          (ceilDiv klen (reduce up down).1 * (reduce up down).1 - 1) (ceilDiv (n * (reduce up down).2) (reduce up down).1)
          (ceilDiv (reduce up down).1 (reduce up down).2))) ∨
    engineInit up down n klen s = .error (failEngine s) := by
  unfold engineInit
  simp only []
  split
  · exact .inr (.inr rfl)
  · rename_i hk
    split
    · rename_i hb
      split
      · exact .inr (.inr rfl)
      · rename_i hc
        exact .inl ⟨by omega, hb.1, hb.2.1, hb.2.2, by omega, by omega, rfl⟩
    · rename_i hb
      split
      · exact .inr (.inr rfl)
      · rename_i hc
        exact .inr (.inl ⟨by omega, hb, by omega, by omega, by omega, rfl⟩)

/-- The two ends of `RRC_SETUP` (41 R351). -/
theorem rrcSetup_cases (upW downW : Word) (n : Nat) (s : State) :
    (∃ t, engineInit (clampFactor (operandS32 upW)) (clampFactor (operandS32 downW)) n
        (selectedKernel s.inst s.draws (clampFactor (operandS32 upW)) (clampFactor (operandS32 downW))).length
        (rrcPrepare upW downW s) = .ok t ∧
      rrcSetup upW downW n s = .ok { t with rrc := rrcNegotiated n t.rrc t.rse }) ∨
    (∃ t, engineInit (clampFactor (operandS32 upW)) (clampFactor (operandS32 downW)) n
        (selectedKernel s.inst s.draws (clampFactor (operandS32 upW)) (clampFactor (operandS32 downW))).length
        (rrcPrepare upW downW s) = .error t ∧
      rrcSetup upW downW n s = .error t) := by
  unfold rrcSetup
  simp only []
  split
  · rename_i t h; exact .inr ⟨t, h, rfl⟩
  · rename_i t h; exact .inl ⟨t, h, rfl⟩

/-- A clamped factor is in [1,4] (41 R352, 10_state R72). -/
theorem clampFactor_range (x : Int) : 1 ≤ clampFactor x ∧ clampFactor x ≤ 4 := by
  unfold clampFactor; omega

/-- A factor in [1,4] is not changed (R352). -/
theorem clampFactor_of_mem (x : Int) (h1 : 1 ≤ x) (h4 : x ≤ 4) : (clampFactor x : Int) = x := by
  unfold clampFactor; omega

/-- The reduced factors of R251 are at least 1 and have no common factor. -/
theorem reduce_spec (up down : Nat) :
    1 ≤ (reduce up down).1 ∧ 1 ≤ (reduce up down).2 ∧ Nat.gcd (reduce up down).1 (reduce up down).2 = 1 := by
  have hu : 0 < Nat.max up 1 := Nat.lt_of_lt_of_le Nat.one_pos (Nat.le_max_right _ _)
  have hd : 0 < Nat.max down 1 := Nat.lt_of_lt_of_le Nat.one_pos (Nat.le_max_right _ _)
  have hg : 0 < Nat.gcd (Nat.max up 1) (Nat.max down 1) := Nat.gcd_pos_of_pos_left _ hu
  refine ⟨?_, ?_, ?_⟩
  · exact Nat.div_pos (Nat.le_of_dvd hu (Nat.gcd_dvd_left _ _)) hg
  · exact Nat.div_pos (Nat.le_of_dvd hd (Nat.gcd_dvd_right _ _)) hg
  · exact Nat.coprime_div_gcd_div_gcd hg

/-- `ceil_div` is the least `q` with `a ≤ q * b` (00_scope R14). -/
theorem ceilDiv_le_iff (a b q : Nat) (hb : 0 < b) : ceilDiv a b ≤ q ↔ a ≤ q * b := by
  unfold ceilDiv
  rw [← Nat.lt_succ_iff, Nat.div_lt_iff_lt_mul hb, Nat.succ_mul]
  omega

theorem le_ceilDiv_mul (a b : Nat) (hb : 0 < b) : a ≤ ceilDiv a b * b := (ceilDiv_le_iff a b _ hb).1 (Nat.le_refl _)

theorem ceilDiv_mul_lt (a b : Nat) (hb : 0 < b) : ceilDiv a b * b < a + b := by
  unfold ceilDiv
  have := Nat.div_mul_le_self (a + b - 1) b
  omega

/-! ### The envelope -/

/-- What `ENV_SAMPLE` can do (42 R422): nothing in Finished; finish at the buffer's end; finish where no phase has a
budget; or give a sample. -/
theorem envSample_cases (s : State) :
    (s.env.phase = .finished ∧ envSample s = (none, s)) ∨
    (s.env.phase ≠ .finished ∧ s.env.len ≤ s.env.cursor ∧ envSample s = (none, { s with env := envFinish s.env })) ∨
    (s.env.phase ≠ .finished ∧ ¬s.env.len ≤ s.env.cursor ∧ (envPlaying s.env).phase = .finished ∧
      envSample s = (none, { s with env := envPlaying s.env })) ∨
    (s.env.phase ≠ .finished ∧ ¬s.env.len ≤ s.env.cursor ∧ (envPlaying s.env).phase ≠ .finished ∧
      envSample s = (some (envEmit (envPlaying s.env) s).1, (envEmit (envPlaying s.env) s).2)) := by
  unfold envSample
  split
  · rename_i h; exact .inl ⟨h, rfl⟩
  · rename_i h
    split
    · rename_i hl; exact .inr (.inl ⟨h, hl, rfl⟩)
    · rename_i hl
      simp only []
      split
      · rename_i hf; exact .inr (.inr (.inl ⟨h, hl, hf, rfl⟩))
      · rename_i hf; exact .inr (.inr (.inr ⟨h, hl, hf, rfl⟩))

/-- A sample changes the envelope and takes five draws, and nothing else. -/
theorem envEmit_frame (e : Env) (s : State) :
    (envEmit e s).2 = { s with env := envStepped e (gainStep s.draws e), draws := s.draws + 5 } := rfl

/-- Entering a phase or finishing, ADVANCE leaves the parameters, the cursor and the buffer length as they were. -/
theorem advanceThrough_frame (ps : List EnvPhase) (e : Env) :
    ∃ ph b g f t, advanceThrough ps e = { e with phase := ph, budget := b, gain := g, fact := f, tgt := t } := by
  induction ps generalizing e with
  | nil => exact ⟨_, _, _, _, _, rfl⟩
  | cons p rest ih =>
    unfold advanceThrough
    split
    · obtain ⟨ph, b, g, f, t, h⟩ := ih { e with gain := phaseTarget e p }
      exact ⟨ph, b, g, f, t, h⟩
    · exact ⟨_, _, _, _, _, rfl⟩

/-- ADVANCE ends in Finished with budget 0, or in a phase with a budget (42 R421). -/
theorem advanceThrough_budget (ps : List EnvPhase) (e : Env) :
    ((advanceThrough ps e).phase = .finished ∧ (advanceThrough ps e).budget = 0) ∨
    ((advanceThrough ps e).phase ∈ ps ∧ (advanceThrough ps e).budget = phaseBudget e (advanceThrough ps e).phase ∧
      (advanceThrough ps e).budget ≠ 0) := by
  induction ps generalizing e with
  | nil => exact .inl ⟨rfl, rfl⟩
  | cons p rest ih =>
    unfold advanceThrough
    split
    · have hb : ∀ q, phaseBudget { e with gain := phaseTarget e p } q = phaseBudget e q := by intro q; cases q <;> rfl
      rcases ih { e with gain := phaseTarget e p } with h | ⟨hm, h1, h2⟩
      · exact .inl h
      · exact .inr ⟨List.mem_cons_of_mem _ hm, by rw [h1, hb], h2⟩
    · rename_i hne
      exact .inr ⟨List.mem_cons_self .., rfl, hne⟩

/-- A run of samples changes the envelope and takes five draws for each sample, and nothing else (42 R422). -/
theorem envSamples_frame (n : Nat) (s : State) :
    ∃ e : Env, (envSamples n s).2 = { s with env := e, draws := s.draws + 5 * (envSamples n s).1.length } := by
  induction n generalizing s with
  | zero => exact ⟨s.env, rfl⟩
  | succ n ih =>
    unfold envSamples
    rcases envSample_cases s with ⟨_, h⟩ | ⟨_, _, h⟩ | ⟨_, _, _, h⟩ | ⟨_, _, _, h⟩
    · rw [h]; exact ⟨s.env, rfl⟩
    · rw [h]; exact ⟨_, rfl⟩
    · rw [h]; exact ⟨_, rfl⟩
    · rw [h]
      obtain ⟨e', h'⟩ := ih (envEmit (envPlaying s.env) s).2
      refine ⟨e', ?_⟩
      simp only []
      rw [h', envEmit_frame]
      simp only [List.length_cons]
      congr 1
      omega

/-- A run of samples gives at most as many as were asked for. -/
theorem envSamples_length_le (n : Nat) (s : State) : (envSamples n s).1.length ≤ n := by
  induction n generalizing s with
  | zero => exact Nat.le_refl _
  | succ n ih =>
    unfold envSamples
    rcases envSample_cases s with ⟨_, h⟩ | ⟨_, _, h⟩ | ⟨_, _, _, h⟩ | ⟨_, _, _, h⟩
    · rw [h]; exact Nat.zero_le _
    · rw [h]; exact Nat.zero_le _
    · rw [h]; exact Nat.zero_le _
    · rw [h]
      have := ih (envEmit (envPlaying s.env) s).2
      simpa using this

/-! ### Commands and cycles -/

/-- Every command answers a next state: it completes or is refused with a record (00_scope R18). -/
theorem exec_next (i : Instr) (s : State) : ∃ t, exec i s = .next t := by
  cases i
  case rseInit => simp only [exec, execRseInit]; split <;> exact ⟨_, rfl⟩
  case rseApply => simp only [exec, execRseApply]; repeat' split
                   all_goals exact ⟨_, rfl⟩
  case rseLenin => simp only [exec, execRseLenin]; repeat' split
                   all_goals exact ⟨_, rfl⟩
  case rseLenout => simp only [exec, execRseLenout]; repeat' split
                    all_goals exact ⟨_, rfl⟩
  case rrcConfig => simp only [exec, execRrcConfig]; split <;> exact ⟨_, rfl⟩
  case rrcNext => simp only [exec, execRrcNext]; split <;> exact ⟨_, rfl⟩
  case envOff => simp only [exec, execEnvOff]; split <;> exact ⟨_, rfl⟩
  case envPlay => simp only [exec, execEnvPlay]; repeat' split
                  all_goals exact ⟨_, rfl⟩
  all_goals exact ⟨_, rfl⟩

/-- What the end of a cycle does (70_reset R590): nothing, one cycle less, or the command performed. -/
theorem clockCommand_cases (s : State) :
    (s.pending = none ∧ clockCommand s = .next s) ∨
    (∃ w n, s.pending = some ⟨w, n⟩ ∧ 1 < n ∧ clockCommand s = .next { s with pending := some ⟨w, n - 1⟩ }) ∨
    (∃ w n i, s.pending = some ⟨w, n⟩ ∧ n ≤ 1 ∧ decode w = .ok i ∧ clockCommand s = exec i { s with pending := none }) ∨
    (∃ w n e, s.pending = some ⟨w, n⟩ ∧ n ≤ 1 ∧ decode w = .error e ∧
      clockCommand s = .next (raiseError .eillegal (opcodeOf w) { s with pending := none })) := by
  unfold clockCommand
  split
  · rename_i h; exact .inl ⟨h, rfl⟩
  · rename_i p h
    obtain ⟨w, n⟩ := p
    split
    · rename_i hn
      unfold performWord
      cases hd : decode w with
      | ok i => exact .inr (.inr (.inl ⟨w, n, i, h, hn, hd, rfl⟩))
      | error e => exact .inr (.inr (.inr ⟨w, n, e, h, hn, hd, rfl⟩))
    · rename_i hn
      exact .inr (.inl ⟨w, n, h, by simpa using hn, rfl⟩)

/-- What a step does: a power-on reset, a fault of the bus, or a bus transaction and then the clock. -/
theorem step_cases (s : State) :
    ((nextCycle s).rst = true ∧ step s = .next (powerOnReset (takeCycle s))) ∨
    (∃ f, (nextCycle s).rst = false ∧
      busCycle (busLatency (nextCycle s).bus (takeCycle s)) (nextCycle s).bus (takeCycle s) = .error f ∧
      step s = .fault f) ∨
    (∃ t, (nextCycle s).rst = false ∧
      busCycle (busLatency (nextCycle s).bus (takeCycle s)) (nextCycle s).bus (takeCycle s) = .ok t ∧
      step s = clockCommand t) := by
  unfold step runCycle
  split
  · rename_i h; exact .inl ⟨h, rfl⟩
  · rename_i h
    split
    · rename_i f hf; exact .inr (.inl ⟨f, by simpa using h, hf, rfl⟩)
    · rename_i t ht; exact .inr (.inr ⟨t, by simpa using h, ht, rfl⟩)

end Sys2Proof.Machine
end

