-- ==== Sys2Proof/Laws/Bus.lean ====
section
/-! SUPPORT. The bus: what each transaction can do, and that a host write keeps the memory good. -/

namespace Sys2Proof.Machine

/-- The locations that may be read while BUSY is 1 are the nine registers of 70_reset R591. -/
theorem readableWhileBusy_iff (l : Loc) :
    readableWhileBusy l = true ↔
      l ∈ [Loc.reg .id, .reg .version, .reg .status, .reg .capKmax, .reg .capHist, .reg .capIn, .reg .capOut, .reg .capDst,
        .reg .capSmp] := by
  cases l with
  | reg r => cases r <;> simp [readableWhileBusy]
  | _ => simp [readableWhileBusy]

/-- A read gives the word at the location, or faults while BUSY is 1 (70_reset R591). -/
theorem busRead_cases (addr : Word) (s : State) :
    ((s.pending = none ∨ readableWhileBusy (locate s.inst addr) = true) ∧
      busRead addr s = .ok { s with rdata := readLoc s (locate s.inst addr) }) ∨
    (s.pending ≠ none ∧ readableWhileBusy (locate s.inst addr) = false ∧ busRead addr s = .error (.busyRead addr)) := by
  unfold busRead
  cases hp : s.pending <;> cases hr : readableWhileBusy (locate s.inst addr) <;> simp [hr]

/-- A write stores to the location, or only sets COLL while BUSY is 1 (70_reset R592). -/
theorem busWrite_cases (lat : Nat) (addr v : Word) (s : State) :
    (s.pending = none ∧ busWrite lat addr v s = writeLoc lat v s (locate s.inst addr)) ∨
    (s.pending ≠ none ∧ busWrite lat addr v s = { s with status := { s.status with coll := true } }) := by
  unfold busWrite
  cases hp : s.pending <;> simp [statusCollide]

/-- A write to a register changes no memory. -/
@[simp] theorem writeReg_mem (lat : Nat) (v : Word) (s : State) (r : Reg) : (writeReg lat v s r).mem = s.mem := by
  cases r <;> rfl

/-- A write to a register changes no constant of the instance. -/
@[simp] theorem writeReg_inst (lat : Nat) (v : Word) (s : State) (r : Reg) : (writeReg lat v s r).inst = s.inst := by
  cases r <;> rfl

/-- Only a write to CMD starts a command. -/
theorem writeReg_pending (lat : Nat) (v : Word) (s : State) (r : Reg) (h : r ≠ .cmd) :
    (writeReg lat v s r).pending = s.pending := by
  cases r <;> first | exact absurd rfl h | rfl

/-- An index that the address decode gives is below the window's depth (20_memory R158). -/
theorem locate_elem_lt (p : Params) (addr : Word) (w : Window) (i : Nat) (h : locate p addr = .elem w i) :
    i < windowDepth p w := by
  have he : ∀ (w' : Window) (k : Nat), locElem p w' k = .elem w i → i < windowDepth p w := by
    intro w' k hk
    unfold locElem at hk
    by_cases hd : k < windowDepth p w'
    · rw [if_pos hd] at hk; cases hk; exact hd
    · rw [if_neg hd] at hk; cases hk
  have hk : ∀ k j, locKrom k j ≠ .elem w i := by
    intro k j hk
    unfold locKrom at hk
    by_cases hd : j < 41 + 20 * k
    · rw [if_pos hd] at hk; cases hk
    · rw [if_neg hd] at hk; cases hk
  unfold locate at h
  generalize 4 * (addr.toNat / 4) = a at h
  by_cases h1 : a < 0x1000
  · simp only [if_pos h1] at h
    cases hr : registerMap.lookup a <;> simp [hr] at h
  · simp only [if_neg h1] at h
    repeat'
      split at h
      all_goals first
        | exact he _ _ h
        | exact absurd h (hk _ _)
        | skip
    all_goals cases h

/-- A write to a location keeps the memory good. -/
theorem memoryGood_writeLoc (lat : Nat) (v : Word) (s : State) (l : Loc) (h : memoryGood s) :
    memoryGood (writeLoc lat v s l) := by
  cases l with
  | reg r =>
    refine ⟨?_, ?_⟩
    · rw [show (writeLoc lat v s (.reg r)).mem = s.mem from writeReg_mem lat v s r]; exact h.1
    · rw [show (writeLoc lat v s (.reg r)).mem = s.mem from writeReg_mem lat v s r,
        show (writeLoc lat v s (.reg r)).inst = s.inst from writeReg_inst lat v s r]
      exact h.2
  | krom k i => exact h
  | unmapped => exact h
  | elem w i =>
    cases w
    case out => exact h
    all_goals exact memoryGood_writeElem s _ i v h

/-- An SMP element written reads the code written (20_memory R159). -/
theorem smpCode_writeElem (s : State) (i : Nat) (v : Word) (hi : i < windowDepth s.inst .smp) :
    smpCode (writeElem s .smp i v) i = v.extractLsb' 0 16 := by
  have hw : writeElem s .smp i v =
      { s with mem := Memory.store s.mem (elemAddr .smp i) (bytesOfCode (v.extractLsb' 0 16)) } := if_pos hi
  rw [hw]
  unfold smpCode
  rw [if_pos (show i < windowDepth s.inst .smp from hi)]
  unfold codeAt byteAt
  have h0 := Memory.lookup_store_inside s.mem (elemAddr .smp i) (bytesOfCode (v.extractLsb' 0 16)) 0 (by simp [bytesOfCode])
  have h1 := Memory.lookup_store_inside s.mem (elemAddr .smp i) (bytesOfCode (v.extractLsb' 0 16)) 1 (by simp [bytesOfCode])
  simp only [Nat.add_zero] at h0
  simp only [h0, h1]
  exact codeOfBytes_bytes _

/-- A byte outside the two of an SMP element reads as before. -/
theorem byteAt_writeElem_smp (s : State) (i : Nat) (v : Word) (a : Nat)
    (h : a < elemAddr .smp i ∨ elemAddr .smp i + 2 ≤ a) : byteAt (writeElem s .smp i v) a = byteAt s a := by
  simp only [writeElem]
  split
  · unfold byteAt
    simp only []
    rw [Memory.lookup_store_outside _ _ _ _ (by simpa [bytesOfCode] using h)]
  · rfl

end Sys2Proof.Machine
end

