-- ==== Sys2Proof/Laws/Factor.lean ====
section
/-! SUPPORT. The comparison behind FACTOR (spec 42 R410): the bounds of a power hold, so `belowRoot` is the exact
comparison whatever the bounds settle. -/

namespace Sys2Proof.Machine

/-- The bounds bracket the exact power `c^k / (2^256)^(k-1)`, written without division. -/
theorem powBounds_sound (c fuel k : Nat) (hc : c ≤ 2 ^ powBits) :
    (powBounds c fuel k).1 * (2 ^ powBits) ^ k ≤ c ^ k * 2 ^ powBits ∧
    c ^ k * 2 ^ powBits ≤ (powBounds c fuel k).2 * (2 ^ powBits) ^ k := by
  generalize hB : (2 : Nat) ^ powBits = B at *
  have hB0 : 0 < B := by rw [← hB]; positivity
  induction fuel generalizing k with
  | zero =>
    simp only [powBounds, hB, Nat.zero_mul, Nat.zero_le, true_and]
    rw [Nat.mul_comm]
    exact Nat.mul_le_mul_left _ (Nat.pow_le_pow_left hc k)
  | succ fuel ih =>
    by_cases hk : k = 0
    · subst hk; simp [powBounds, hB]
    · obtain ⟨ihl, ihh⟩ := ih (k / 2)
      have hdl : ∀ x : Nat, x / B * B ≤ x := fun x => Nat.div_mul_le_self x B
      have hdh : ∀ x : Nat, x ≤ (x / B + 1) * B := fun x => by
        have := Nat.lt_div_mul_add (a := x) hB0; nlinarith
      -- the square of the half power
      have hsqL : (powBounds c fuel (k / 2)).1 * (powBounds c fuel (k / 2)).1 / B * B ^ (2 * (k / 2)) ≤
          c ^ (2 * (k / 2)) * B := by
        have h := Nat.mul_le_mul ihl ihl
        have h' := Nat.mul_le_mul_right (B ^ (2 * (k / 2)))
          (hdl ((powBounds c fuel (k / 2)).1 * (powBounds c fuel (k / 2)).1))
        refine Nat.le_of_mul_le_mul_right (c := B) ?_ hB0
        rw [two_mul, pow_add, pow_add] at *
        nlinarith
      have hsqH : c ^ (2 * (k / 2)) * B ≤
          ((powBounds c fuel (k / 2)).2 * (powBounds c fuel (k / 2)).2 / B + 1) * B ^ (2 * (k / 2)) := by
        have h := Nat.mul_le_mul ihh ihh
        have h' := Nat.mul_le_mul_right (B ^ (2 * (k / 2)))
          (hdh ((powBounds c fuel (k / 2)).2 * (powBounds c fuel (k / 2)).2))
        refine Nat.le_of_mul_le_mul_right (c := B) ?_ hB0
        rw [two_mul, pow_add, pow_add] at *
        nlinarith
      simp only [powBounds, hk, if_false, hB]
      rcases Nat.mod_two_eq_zero_or_one k with h0 | h1
      · rw [if_pos h0]
        rw [show 2 * (k / 2) = k by omega] at hsqL hsqH
        exact ⟨hsqL, hsqH⟩
      · rw [if_neg (by omega)]
        have hk2 : k = 2 * (k / 2) + 1 := by omega
        generalize (powBounds c fuel (k / 2)).1 * (powBounds c fuel (k / 2)).1 / B = lo at *
        generalize (powBounds c fuel (k / 2)).2 * (powBounds c fuel (k / 2)).2 / B + 1 = hi at *
        constructor
        · calc lo * c / B * B ^ k = (lo * c / B * B) * B ^ (2 * (k / 2)) := by
                conv_lhs => rw [hk2, pow_succ]
                ring
            _ ≤ lo * c * B ^ (2 * (k / 2)) := Nat.mul_le_mul_right _ (hdl _)
            _ = (lo * B ^ (2 * (k / 2))) * c := by ring
            _ ≤ (c ^ (2 * (k / 2)) * B) * c := Nat.mul_le_mul_right _ hsqL
            _ = c ^ k * B := by conv_rhs => rw [hk2, pow_succ]
                                ring
        · calc c ^ k * B = (c ^ (2 * (k / 2)) * B) * c := by
                conv_lhs => rw [hk2, pow_succ]
                ring
            _ ≤ (hi * B ^ (2 * (k / 2))) * c := Nat.mul_le_mul_right _ hsqH
            _ = hi * c * B ^ (2 * (k / 2)) := by ring
            _ ≤ ((hi * c / B + 1) * B) * B ^ (2 * (k / 2)) := Nat.mul_le_mul_right _ (hdh _)
            _ = (hi * c / B + 1) * B ^ k := by
                conv_rhs => rw [hk2, pow_succ]
                ring

/-- `belowRoot` is the exact comparison of `num / 2^28` with `0.01^(1/k)`. -/
theorem belowRoot_iff (k num : Nat) (hn : num ≤ 2 ^ 28) :
    belowRoot k num = true ↔ 100 * num ^ k < 2 ^ (28 * k) := by
  have hc : num * 2 ^ 228 ≤ 2 ^ powBits := by
    calc num * 2 ^ 228 ≤ 2 ^ 28 * 2 ^ 228 := Nat.mul_le_mul_right _ hn
      _ = 2 ^ powBits := by rw [← pow_add]; rfl
  obtain ⟨hl, hh⟩ := powBounds_sound (num * 2 ^ 228) 40 k hc
  have hB : (2 : Nat) ^ powBits = 2 ^ 28 * 2 ^ 228 := by rw [← pow_add]; rfl
  have hpow : ((2 : Nat) ^ powBits) ^ k = 2 ^ (28 * k) * (2 ^ 228) ^ k := by rw [hB, mul_pow, ← pow_mul]
  have hS : 0 < ((2 : Nat) ^ 228) ^ k := by positivity
  have hP : 0 < (2 : Nat) ^ powBits := by positivity
  have hlow : ∀ x : Nat, x * (2 ^ powBits) ^ k ≤ (num * 2 ^ 228) ^ k * 2 ^ powBits →
      x * 2 ^ (28 * k) ≤ num ^ k * 2 ^ powBits := by
    intro x hx
    refine Nat.le_of_mul_le_mul_right (c := (2 ^ 228) ^ k) ?_ hS
    rw [mul_pow, hpow] at hx
    calc x * 2 ^ (28 * k) * (2 ^ 228) ^ k = x * (2 ^ (28 * k) * (2 ^ 228) ^ k) := by ring
      _ ≤ num ^ k * (2 ^ 228) ^ k * 2 ^ powBits := hx
      _ = num ^ k * 2 ^ powBits * (2 ^ 228) ^ k := by ring
  have hhigh : ∀ x : Nat, (num * 2 ^ 228) ^ k * 2 ^ powBits ≤ x * (2 ^ powBits) ^ k →
      num ^ k * 2 ^ powBits ≤ x * 2 ^ (28 * k) := by
    intro x hx
    refine Nat.le_of_mul_le_mul_right (c := (2 ^ 228) ^ k) ?_ hS
    rw [mul_pow, hpow] at hx
    calc num ^ k * 2 ^ powBits * (2 ^ 228) ^ k = num ^ k * (2 ^ 228) ^ k * 2 ^ powBits := by ring
      _ ≤ x * (2 ^ (28 * k) * (2 ^ 228) ^ k) := hx
      _ = x * 2 ^ (28 * k) * (2 ^ 228) ^ k := by ring
  have hl' := hlow _ hl
  have hh' := hhigh _ hh
  have h28 : 0 < (2 : Nat) ^ (28 * k) := by positivity
  simp only [belowRoot]
  generalize (2 : Nat) ^ powBits = P at *
  generalize (2 : Nat) ^ (28 * k) = Q at *
  split
  · rename_i h
    refine iff_of_true rfl ?_
    refine Nat.lt_of_mul_lt_mul_right (a := P) ?_
    calc 100 * num ^ k * P = 100 * (num ^ k * P) := by ring
      _ ≤ 100 * ((powBounds (num * 2 ^ 228) 40 k).2 * Q) := Nat.mul_le_mul_left _ hh'
      _ = (100 * (powBounds (num * 2 ^ 228) 40 k).2) * Q := by ring
      _ < P * Q := Nat.mul_lt_mul_of_pos_right h h28
      _ = Q * P := Nat.mul_comm _ _
  · split
    · rename_i h
      refine iff_of_false (by simp) (Nat.not_lt.2 ?_)
      refine Nat.le_of_mul_le_mul_right (c := P) ?_ hP
      calc Q * P = P * Q := Nat.mul_comm _ _
        _ ≤ (100 * (powBounds (num * 2 ^ 228) 40 k).1) * Q := Nat.mul_le_mul_right _ h.le
        _ = 100 * ((powBounds (num * 2 ^ 228) 40 k).1 * Q) := by ring
        _ ≤ 100 * (num ^ k * P) := Nat.mul_le_mul_left _ hl'
        _ = 100 * num ^ k * P := by ring
    · simp

end Sys2Proof.Machine
end

