-- ==== Sys2Proof/Laws/Float.lean ====
section
/-! SUPPORT. Binary32: the fields of a packed datum, the NaN draws, and that an operation on the same samples gives the
same sample whichever draw it would use. -/

namespace Sys2Proof.Machine

theorem F32.pack_toNat (neg : Bool) (bits : Nat) :
    (F32.pack neg bits).toNat = neg.toNat * 2 ^ 31 + bits % 2 ^ 31 := by
  have h : bits % 2 ^ 31 < 2 ^ 31 := Nat.mod_lt _ (by decide)
  unfold F32.pack
  rw [BitVec.toNat_append, BitVec.toNat_ofNat, Nat.shiftLeft_eq, ← Nat.shiftLeft_eq,
    ← Nat.shiftLeft_add_eq_or_of_lt h, Nat.shiftLeft_eq]
  cases neg <;> simp

@[simp] theorem F32.sign_pack (neg : Bool) (bits : Nat) : F32.sign (F32.pack neg bits) = neg := by
  have h : bits % 2 ^ 31 < 2 ^ 31 := Nat.mod_lt _ (by decide)
  unfold F32.sign
  rw [← BitVec.testBit_toNat, F32.pack_toNat]
  cases neg
  · simpa using Nat.testBit_lt_two_pow h
  · rw [show true.toNat * 2 ^ 31 + bits % 2 ^ 31 = 2 ^ 31 + bits % 2 ^ 31 from by simp, Nat.testBit_two_pow_add_eq,
      Nat.testBit_lt_two_pow h]
    rfl

/-- The biased exponent of a packed datum whose magnitude bits fit 31 bits. -/
theorem F32.expo_pack (neg : Bool) (bits : Nat) (h : bits < 2 ^ 31) : F32.expo (F32.pack neg bits) = bits / 2 ^ 23 := by
  unfold F32.expo
  rw [BitVec.extractLsb'_toNat, F32.pack_toNat, Nat.shiftRight_eq_div_pow, Nat.mod_eq_of_lt h]
  cases neg <;> (simp; omega)

/-- The fraction of a packed datum. -/
theorem F32.frac_pack (neg : Bool) (bits : Nat) (h : bits < 2 ^ 31) : F32.frac (F32.pack neg bits) = bits % 2 ^ 23 := by
  unfold F32.frac
  rw [BitVec.extractLsb'_toNat, F32.pack_toNat, Nat.shiftRight_eq_div_pow, Nat.mod_eq_of_lt h]
  cases neg
  · simp
  · simp; omega

/-- A free draw is a NaN (93 item I-NAN: "The draw can only be a NaN, never a number"). -/
@[simp] theorem F32.isNaN_nan (d : Nat) : F32.isNaN (F32.nan d) = true := by
  have hlt : (Config.nanFraction d).toNat < 2 ^ 23 := (Config.nanFraction d).isLt
  unfold F32.nan
  generalize hx : (if Config.nanFraction d = 0 then 1 else (Config.nanFraction d).toNat) = x
  have hx0 : 0 < x ∧ x < 2 ^ 23 := by
    rw [← hx]
    split
    · omega
    · rename_i hne
      refine ⟨Nat.pos_of_ne_zero fun h0 => hne ?_, hlt⟩
      exact BitVec.eq_of_toNat_eq (by simpa using h0)
  unfold F32.isNaN
  rw [F32.expo_pack _ _ (by omega), F32.frac_pack _ _ (by omega)]
  simp only [Bool.and_eq_true, beq_iff_eq, bne_iff_ne]
  omega

theorem sameSample_refl (a : Word) : sameSample a a := .inl rfl

theorem sameSample_isNaN {a b : Word} (h : sameSample a b) : F32.isNaN a = F32.isNaN b := by
  rcases h with rfl | ⟨ha, hb⟩
  · rfl
  · rw [ha, hb]

theorem F32.add_of_nan {a b : Word} (d : Nat) (h : F32.isNaN a = true ∨ F32.isNaN b = true) :
    F32.add d a b = F32.nan d := by
  have : F32.addNum a b = none := if_pos (by simpa using h)
  simp [F32.add, this]

theorem F32.mul_of_nan {a b : Word} (d : Nat) (h : F32.isNaN a = true ∨ F32.isNaN b = true) :
    F32.mul d a b = F32.nan d := by
  have : F32.mulNum a b = none := if_pos (by simpa using h)
  simp [F32.mul, this]

/-- The number of the draw shows only in a NaN's bits. -/
theorem F32.add_same_draw (d d' : Nat) (a b : Word) : sameSample (F32.add d a b) (F32.add d' a b) := by
  unfold F32.add
  cases F32.addNum a b with
  | none => exact .inr ⟨F32.isNaN_nan d, F32.isNaN_nan d'⟩
  | some w => simp only [Option.getD_some]; exact sameSample_refl w

/-- The number of the draw shows only in a NaN's bits. -/
theorem F32.mul_same_draw (d d' : Nat) (a b : Word) : sameSample (F32.mul d a b) (F32.mul d' a b) := by
  unfold F32.mul
  cases F32.mulNum a b with
  | none => exact .inr ⟨F32.isNaN_nan d, F32.isNaN_nan d'⟩
  | some w => simp only [Option.getD_some]; exact sameSample_refl w

/-- Addition respects sample equality. -/
theorem F32.add_same {a a' b b' : Word} (d d' : Nat) (ha : sameSample a a') (hb : sameSample b b') :
    sameSample (F32.add d a b) (F32.add d' a' b') := by
  rcases ha with rfl | ⟨ha, ha'⟩
  · rcases hb with rfl | ⟨hb, hb'⟩
    · exact F32.add_same_draw d d' a b
    · rw [F32.add_of_nan d (.inr hb), F32.add_of_nan d' (.inr hb')]; exact .inr ⟨F32.isNaN_nan d, F32.isNaN_nan d'⟩
  · rw [F32.add_of_nan d (.inl ha), F32.add_of_nan d' (.inl ha')]; exact .inr ⟨F32.isNaN_nan d, F32.isNaN_nan d'⟩

/-- Multiplication respects sample equality. -/
theorem F32.mul_same {a a' b b' : Word} (d d' : Nat) (ha : sameSample a a') (hb : sameSample b b') :
    sameSample (F32.mul d a b) (F32.mul d' a' b') := by
  rcases ha with rfl | ⟨ha, ha'⟩
  · rcases hb with rfl | ⟨hb, hb'⟩
    · exact F32.mul_same_draw d d' a b
    · rw [F32.mul_of_nan d (.inr hb), F32.mul_of_nan d' (.inr hb')]; exact .inr ⟨F32.isNaN_nan d, F32.isNaN_nan d'⟩
  · rw [F32.mul_of_nan d (.inl ha), F32.mul_of_nan d' (.inl ha')]; exact .inr ⟨F32.isNaN_nan d, F32.isNaN_nan d'⟩

end Sys2Proof.Machine
end

