-- ==== Sys2Proof/Laws/PerInstr.lean ====
section
/-! SUPPORT. A fact of every command as syntax, one lemma for each constructor: its word is one of the legal words of spec
30_encoding R202, with the reserved field of R200 zero. -/

namespace Sys2Proof.Laws

/-- The word of a command is a legal word and its reserved field is 0. -/
def EncodingLegal.Statement (i : Instr) : Prop :=
  wordLegal (encode i) = true ∧ (encode i).extractLsb' 8 24 = 0

theorem EncodingLegal.nop : EncodingLegal.Statement .nop := by constructor <;> decide
theorem EncodingLegal.srst : EncodingLegal.Statement .srst := by constructor <;> decide
theorem EncodingLegal.rseInit : EncodingLegal.Statement .rseInit := by constructor <;> decide
theorem EncodingLegal.rseDeinit : EncodingLegal.Statement .rseDeinit := by constructor <;> decide
theorem EncodingLegal.rseApply : EncodingLegal.Statement .rseApply := by constructor <;> decide
theorem EncodingLegal.rseLenin : EncodingLegal.Statement .rseLenin := by constructor <;> decide
theorem EncodingLegal.rseLenout : EncodingLegal.Statement .rseLenout := by constructor <;> decide
theorem EncodingLegal.rseIsbyp : EncodingLegal.Statement .rseIsbyp := by constructor <;> decide
theorem EncodingLegal.rseGcd : EncodingLegal.Statement .rseGcd := by constructor <;> decide
theorem EncodingLegal.rrcConfig : EncodingLegal.Statement .rrcConfig := by constructor <;> decide
theorem EncodingLegal.rrcNext : EncodingLegal.Statement .rrcNext := by constructor <;> decide
theorem EncodingLegal.envOn : EncodingLegal.Statement .envOn := by constructor <;> decide
theorem EncodingLegal.envOff : EncodingLegal.Statement .envOff := by constructor <;> decide
theorem EncodingLegal.envSetadsr : EncodingLegal.Statement .envSetadsr := by constructor <;> decide
theorem EncodingLegal.envSetfade : EncodingLegal.Statement .envSetfade := by constructor <;> decide
theorem EncodingLegal.envPlay : EncodingLegal.Statement .envPlay := by constructor <;> decide
theorem EncodingLegal.envRemain : EncodingLegal.Statement .envRemain := by constructor <;> decide

end Sys2Proof.Laws
end

