-- ==== Sys2Proof/Laws/Stream.lean ====
section
/-! SUPPORT. The sample stream: what the delivery of an apply gives and keeps, the sizes of its lists, and what an apply,
the destination write and the two play paths leave alone. -/

namespace Sys2Proof.Machine

/-! ### Delivery (40 R270) -/

/-- The block delivered has N samples: those available, then +0.0. -/
theorem deliver_block (n m : Nat) (av : List Word) :
    (deliver n m av).block.length = n ∧ ∀ i, i < n → (deliver n m av).block.getD i 0 = av.getD i 0 := by
  unfold deliver
  split
  · rename_i h
    refine ⟨by simp [h], fun i hi => ?_⟩
    simp [List.getD, hi]
  · rename_i h
    refine ⟨by simp; omega, fun i hi => ?_⟩
    simp only [List.getD]
    by_cases ha : i < av.length
    · rw [List.getElem?_append_left ha]
    · rw [List.getElem?_append_right (by omega)]
      simp [show i - av.length < n - av.length by omega, show av.length ≤ i by omega, F32.zero]

/-- The carry is the oldest OFFMAX of the samples beyond the block. -/
theorem deliver_carry (n m : Nat) (av : List Word) :
    (deliver n m av).carry = (av.drop n).take m ∧ (deliver n m av).carry.length ≤ m := by
  unfold deliver
  split
  · exact ⟨rfl, List.length_take_le _ _⟩
  · rename_i h
    have : av.drop n = [] := List.drop_eq_nil_of_le (by omega)
    simp [this]

/-- The two flags of a delivery. -/
theorem deliver_flags (n m : Nat) (av : List Word) :
    (deliver n m av).unr = decide (av.length < n) ∧ (deliver n m av).ovr = decide (n + m < av.length) := by
  unfold deliver
  split
  · rename_i h
    refine ⟨by simp [h], ?_⟩
    simp only [List.length_drop, decide_eq_decide]; omega
  · rename_i h
    refine ⟨by simp; omega, ?_⟩
    simp; omega

/-! ### Sizes -/

/-- `last(S, H)` has H elements where there are so many (00_scope R16). -/
theorem lastN_length (h : Nat) (xs : List Word) (hx : h ≤ xs.length) : (lastN h xs).length = h := by
  unfold lastN; rw [List.length_drop]; omega

/-- An apply computes KCOUNT samples (40 R255, R267). -/
@[simp] theorem keptOutputs_length (base : Nat) (r : Rse) (chunk : List Word) :
    (keptOutputs base r chunk).length = keptCount r chunk.length := by simp [keptOutputs]

/-- The new decimation phase, as R256 has it, is below D. -/
theorem nextPhase_spec (dph u numIn d : Nat) (hd : 0 < d) :
    (nextPhase dph u numIn d : Int) = ((dph : Int) - u * numIn) % (d : Int) ∧ nextPhase dph u numIn d < d := by
  have h0 : 0 ≤ ((dph : Int) - u * numIn) % (d : Int) := Int.emod_nonneg _ (by omega)
  have h1 : ((dph : Int) - u * numIn) % (d : Int) < d := Int.emod_lt_of_pos _ (by omega)
  unfold nextPhase
  omega

/-- A mix has as many samples as the new block, where the old one is as long (42 R444). -/
theorem mixSamples_length (append : Bool) (base : Nat) (old new : List Word) (h : old.length = new.length) :
    (mixSamples append base old new).length = new.length := by
  unfold mixSamples
  split <;> simp [h]

/-! ### Frames -/

/-- An apply changes the engine, the stream flags, OUT and the draws, and nothing else. -/
theorem applyFilter_frame (numIn : Nat) (s : State) :
    ∃ e st m q, applyFilter numIn s = { s with rse := e, status := st, mem := m, draws := q } := ⟨_, _, _, _, rfl⟩

/-- A destination write changes DST and the draws, and nothing else. -/
theorem writeSamples_frame (xs : List Word) (s : State) :
    ∃ m q, writeSamples xs s = { s with mem := m, draws := q } := ⟨_, _, rfl⟩

/-- The 1:1 path changes the envelope, DST and the draws, and nothing else. -/
theorem playDirect_frame (n : Nat) (s : State) :
    ∃ e m q, playDirect n s = { s with env := e, mem := m, draws := q } := by
  obtain ⟨e, he⟩ := envSamples_frame n s
  unfold playDirect
  simp only []
  rw [he]
  exact ⟨_, _, _, rfl⟩

/-- The resample path changes the envelope, the engine, the RRC registers, the flags, memory and the draws. -/
theorem playResample_frame (n : Nat) (s : State) :
    ∃ e r c st m q, playResample n s = { s with env := e, rse := r, rrc := c, status := st, mem := m, draws := q } := by
  obtain ⟨e, he⟩ := envSamples_frame (rrcDue s) (rrcAdvance s)
  unfold playResample
  simp only []
  rw [he]
  exact ⟨_, _, _, _, _, _, rfl⟩

/-- Playing changes no operand, no result, no constant and nothing of the host's side. -/
theorem playPath_frame (n : Nat) (s : State) :
    ∃ e r c st m q, playPath n s = { s with env := e, rse := r, rrc := c, status := st, mem := m, draws := q } := by
  unfold playPath
  split
  · obtain ⟨e, m, q, h⟩ := playDirect_frame n s
    exact ⟨e, s.rse, s.rrc, s.status, m, q, h⟩
  · exact playResample_frame n s

/-! ### Memory -/

/-- An apply keeps the memory good. -/
theorem memoryGood_applyFilter (numIn : Nat) (s : State) (h : memoryGood s) : memoryGood (applyFilter numIn s) :=
  memoryGood_writeBlock s .out 0 _ h

/-- A destination write keeps the memory good. -/
theorem memoryGood_writeSamples (xs : List Word) (s : State) (h : memoryGood s) : memoryGood (writeSamples xs s) :=
  memoryGood_writeBlock s .dst 0 _ h

/-- A run of samples keeps the memory as it is. -/
theorem memoryGood_envSamples (n : Nat) (s : State) (h : memoryGood s) : memoryGood (envSamples n s).2 := by
  obtain ⟨e, he⟩ := envSamples_frame n s
  rw [he]; exact h

/-- Playing keeps the memory good. -/
theorem memoryGood_playPath (n : Nat) (s : State) (h : memoryGood s) : memoryGood (playPath n s) := by
  unfold playPath
  split
  · exact memoryGood_writeSamples _ _ (memoryGood_envSamples n s h)
  · refine memoryGood_writeSamples _ _ (memoryGood_applyFilter _ _ (memoryGood_writeBlock _ .inp 0 _ ?_))
    exact memoryGood_envSamples (rrcDue s) (rrcAdvance s) h

end Sys2Proof.Machine
end

