-- ==== Sys2Proof/Tests/Slice0.lean ====
section
/-! SUPPORT. The model's own tests: ill-formed data refused, every command's word decoded, the vectors of spec
95_test_vectors on a small instance, and for each statement with hypotheses a state that meets them. -/

open Sys2Proof Sys2Proof.Machine Sys2Proof.Spec

namespace Sys2Proof.Tests

-- one kernel evaluation at a time: each takes a thread with a large stack
set_option Elab.async false

/-! ### Well-formedness: each check refuses an ill-formed term -/

/-- A small legal instance; its kernel tables are the test's own. -/
def tiny : Params :=
  { capKmax := 81, capHist := 83, capIn := 8, capOut := 20, capDst := 8, capSmp := 16,
    ktab2 := Vector.replicate 41 0x3F800000, ktab3 := Vector.replicate 61 0x3F800000,
    ktab4 := Vector.replicate 81 0x3F800000 }

theorem test_legal_instances : tiny.legal = true ∧ Config.reference.legal = true := by decide
theorem test_illegal_kmax : ({ tiny with capKmax := 80 } : Params).legal = false ∧
    ({ tiny with capKmax := 1025 } : Params).legal = false := by decide
theorem test_illegal_hist : ({ tiny with capHist := 82 } : Params).legal = false ∧
    ({ tiny with capHist := 4097 } : Params).legal = false := by decide
theorem test_illegal_in : ({ tiny with capIn := 0 } : Params).legal = false ∧
    ({ tiny with capIn := 4097 } : Params).legal = false := by decide
theorem test_illegal_out : ({ tiny with capOut := 0 } : Params).legal = false ∧
    ({ tiny with capOut := 4097 } : Params).legal = false := by decide
theorem test_illegal_dst : ({ tiny with capDst := 0 } : Params).legal = false ∧
    ({ tiny with capDst := 4097 } : Params).legal = false := by decide
theorem test_illegal_smp : ({ tiny with capSmp := 0 } : Params).legal = false ∧
    ({ tiny with capSmp := 0x1000001 } : Params).legal = false := by decide
theorem test_illegal_reserved_field : wordReservedClear 0x00000110 = false ∧ wordLegal 0x00000110 = false ∧
    wordLegal 0x80000000 = false := by decide
theorem test_illegal_opcode : wordOpcodeListed 0x00000017 = false ∧ wordLegal 0x00000017 = false ∧
    wordLegal 0x00000002 = false ∧ wordLegal 0x00000022 = false ∧ wordLegal 0x00000036 = false ∧
    wordLegal 0x00000040 = false := by decide

/-! ### Decoding: the words of 30_encoding R200 and R202, RSVD, UNIT and FUNC written out -/

theorem test_decode_block :
    decode (0x000000#24 ++ 0b0000#4 ++ 0b0000#4) = .ok .nop ∧
    decode (0x000000#24 ++ 0b0000#4 ++ 0b0001#4) = .ok .srst := ⟨rfl, rfl⟩
theorem test_decode_rse :
    decode (0x000000#24 ++ 0b0001#4 ++ 0b0000#4) = .ok .rseInit ∧
    decode (0x000000#24 ++ 0b0001#4 ++ 0b0001#4) = .ok .rseDeinit ∧
    decode (0x000000#24 ++ 0b0001#4 ++ 0b0010#4) = .ok .rseApply ∧
    decode (0x000000#24 ++ 0b0001#4 ++ 0b0011#4) = .ok .rseLenin ∧
    decode (0x000000#24 ++ 0b0001#4 ++ 0b0100#4) = .ok .rseLenout ∧
    decode (0x000000#24 ++ 0b0001#4 ++ 0b0101#4) = .ok .rseIsbyp ∧
    decode (0x000000#24 ++ 0b0001#4 ++ 0b0110#4) = .ok .rseGcd := ⟨rfl, rfl, rfl, rfl, rfl, rfl, rfl⟩
theorem test_decode_rrc :
    decode (0x000000#24 ++ 0b0010#4 ++ 0b0000#4) = .ok .rrcConfig ∧
    decode (0x000000#24 ++ 0b0010#4 ++ 0b0001#4) = .ok .rrcNext := ⟨rfl, rfl⟩
theorem test_decode_env :
    decode (0x000000#24 ++ 0b0011#4 ++ 0b0000#4) = .ok .envOn ∧
    decode (0x000000#24 ++ 0b0011#4 ++ 0b0001#4) = .ok .envOff ∧
    decode (0x000000#24 ++ 0b0011#4 ++ 0b0010#4) = .ok .envSetadsr ∧
    decode (0x000000#24 ++ 0b0011#4 ++ 0b0011#4) = .ok .envSetfade ∧
    decode (0x000000#24 ++ 0b0011#4 ++ 0b0100#4) = .ok .envPlay ∧
    decode (0x000000#24 ++ 0b0011#4 ++ 0b0101#4) = .ok .envRemain := ⟨rfl, rfl, rfl, rfl, rfl, rfl⟩
theorem test_decode_refuses : decode 0x00010000 = .error .reservedBits ∧ decode 0x0000003F = .error .unlistedOpcode :=
  ⟨rfl, rfl⟩
theorem test_decode_table_word :
    decodeTableWord 32 0x34 = some .envPlay ∧ decodeTableWord 32 0x17 = none ∧ decodeTableWord 64 0 = none :=
  ⟨rfl, rfl, rfl⟩

/-! ### Small states -/

/-- The small instance after reset. -/
def box : State := State.resetOf tiny

/-- The state after a command that answers a next state. -/
def after (i : Instr) (s : State) : State :=
  match exec i s with
  | .next t => t
  | _ => s

/-- With these operands. -/
def args (a b c d : Word) (s : State) : State := { s with arg := ⟨a, b, c, d⟩ }

/-- With these words at the start of a window of words. -/
def fill (w : Window) (ws : List Word) (s : State) : State := writeBlock s w 0 ws

/-- With these codes at the start of SMP. -/
def codes (ws : List Word) (s : State) : State := ws.zipIdx.foldl (fun t q => writeElem t .smp q.2 q.1) s

/-- What a read of a register returns. -/
def reg (s : State) (r : Reg) : Word := readReg s r

/-- The engine of V-APP4: kernel [1.0] at 3:2 with N = 4. -/
def engine32 : State := after .rseInit (args 3 2 4 1 (fill .kmem [0x3F800000] box))

/-- The bypass engine of V-APP8, with N the whole of IN. -/
def engineByp : State := after .rseInit (args 1 1 8 1 (fill .kmem [0x3F800000] box))

/-- The envelope of V-ENV1 in Ready: 8 samples, (2, 1, 2, 0.5), no fadeout, both references valid. -/
def note : State :=
  after .envOn (after .envSetadsr (args 0x40000000 0x3F800000 0x40000000 0x3F000000
    { codes (List.replicate 8 0x7FFF) box with env := { box.env with fs := 1, slen := 8, smpv := true, dstv := true } }))

/-- The envelope of V-ENV2 in Ready: 16 samples, (1, 1, 1, 0.5), fadeout 2. -/
def noteFade : State :=
  after .envOn { box with env := { box.env with fs := 1, slen := 16, smpv := true, dstv := true, atkP := 0x3F800000,
                                                decP := 0x3F800000, relP := 0x3F800000, susP := 0x3F000000,
                                                fadeP := 0x40000000 } }

/-! ### Block control -/

theorem test_nop : exec .nop (args 1 2 3 4 box) = .next (args 1 2 3 4 box) := rfl
theorem test_srst_keeps_memory :
    reg (after .srst (args 7 7 7 7 (fill .dst [5] box))) .arg0 = 0 ∧
    readElem (after .srst (args 7 7 7 7 (fill .dst [5] box))) .dst 0 = 5 := by decide +kernel

/-! ### RSE: V-INIT, V-APP, V-NEG, V-LENOUT, V-GCD -/

/-- V-INIT, row 2, 1, 2, 0. -/
theorem test_init_empty_kernel :
    reg (after .rseInit (args 2 1 2 0 box)) .rseStat = 1 ∧ reg (after .rseInit (args 2 1 2 0 box)) .rseInmax = 1 ∧
    reg (after .rseInit (args 2 1 2 0 box)) .rseOffmax = 2 := by decide +kernel
/-- V-INIT, the row of a kernel longer than KMEM: FAILED with STATUS 0x00100302. -/
theorem test_init_fails :
    reg (after .rseInit (args 1 1 1 200 box)) .rseStat = 2 ∧
    reg (after .rseInit (args 1 1 1 200 box)) .status = 0x00100302 := by decide +kernel
theorem test_deinit : reg (after .rseDeinit engine32) .rseStat = 0 ∧ reg (after .rseDeinit engine32) .rseU = 0 := by
  decide +kernel
/-- V-APP4, call 1. -/
theorem test_apply_carries :
    readBlock (after .rseApply (args 3 0 0 0 (fill .inp [0x41200000, 0x41A00000, 0x41F00000] engine32))) .out 0 4 =
      [0x41200000, 0, 0, 0x41F00000] ∧
    reg (after .rseApply (args 3 0 0 0 (fill .inp [0x41200000, 0x41A00000, 0x41F00000] engine32))) .rseCarry = 1 ∧
    reg (after .rseApply (args 3 0 0 0 (fill .inp [0x41200000, 0x41A00000, 0x41F00000] engine32))) .rseDph = 1 := by
  decide +kernel
/-- V-APP2, call 1: phase 0 is (1, 1) and phase 1 is (1, padding). -/
theorem test_apply_phases :
    readBlock (after .rseApply (args 2 0 0 0 (fill .inp [0x3F800000, 0x40000000]
      (after .rseInit (args 2 1 4 3 (fill .kmem [0x3F800000, 0x3F800000, 0x3F800000] box)))))) .out 0 4 =
      [0x3F800000, 0x3F800000, 0x40400000, 0x40000000] := by decide +kernel
/-- V-NEG, row 4, 3, 2. -/
theorem test_lenin : (after .rseLenin (args 4 0 0 0 engine32)).res = ⟨2, 3, 1, 2⟩ := by decide +kernel
/-- V-LENOUT, row 43, 3, 2. -/
theorem test_lenout : reg (after .rseLenout (args 43 0 0 0 engine32)) .res0 = 65 := by decide +kernel
/-- V-LENOUT, the last row. -/
theorem test_lenout_range :
    reg (after .rseLenout (args 0x40000000 0 0 0 (after .rseInit (args 4 1 1 1 (fill .kmem [0] box))))) .status = 0x00140502 := by
  decide +kernel
theorem test_isbyp : reg (after .rseIsbyp engineByp) .res0 = 1 ∧ reg (after .rseIsbyp engine32) .res0 = 0 := by
  decide +kernel
/-- V-GCD, three rows. -/
theorem test_gcd :
    reg (after .rseGcd (args 48 36 0 0 box)) .res0 = 12 ∧ reg (after .rseGcd (args 0 5 0 0 box)) .res0 = 5 ∧
    reg (after .rseGcd (args 0x80000000 0x40000000 0 0 box)) .res0 = 0x40000000 := by decide +kernel

/-! ### RRC: V-CLAMP, V-NEXT -/

/-- V-CLAMP, row 7, -2, 16. -/
theorem test_config_clamps :
    reg (after .rrcConfig (args 7 0xFFFFFFFE 16 0 box)) .status = 0x00000020 ∧
    reg (after .rrcConfig (args 7 0xFFFFFFFE 16 0 box)) .rrcStat = 0x9 ∧
    reg (after .rrcConfig (args 7 0xFFFFFFFE 16 0 box)) .rseH = 83 ∧
    reg (after .rrcConfig (args 7 0xFFFFFFFE 16 0 box)) .rseInmax = 4 ∧
    readElem (after .rrcConfig (args 7 0xFFFFFFFE 16 0 box)) .kmem 80 = 0x40800000 := by decide +kernel
/-- SEQ of V-NEG, row 4, 3, 2. -/
theorem test_next :
    reg (after .rrcNext (after .rrcConfig (args 3 2 4 0 box))) .res0 = 3 ∧
    reg (after .rrcNext (after .rrcNext (after .rrcNext (after .rrcConfig (args 3 2 4 0 box))))) .res0 = 2 ∧
    reg (after .rrcNext (after .rrcNext (after .rrcNext (after .rrcConfig (args 3 2 4 0 box))))) .rrcCur = 0 := by
  decide +kernel

/-! ### ENV: V-ENV, V-S2S, V-CONV, V-FACT, P4 -/

/-- V-ENV1: the latched counts. -/
theorem test_on :
    reg note .envNa = 2 ∧ reg note .envNd = 1 ∧ reg note .envNs = 3 ∧ reg note .envNr = 2 ∧ reg note .envNf = 0 ∧
    reg note .envState = 0 := by decide +kernel
/-- V-ENV2: off in Sustain, after four samples. -/
theorem test_off :
    reg (after .envOff (envSamples 4 noteFade).2) .envState = 5 ∧
    reg (after .envOff (envSamples 4 noteFade).2) .envBudget = 2 ∧
    reg (after .envOff (envSamples 4 noteFade).2) .envFact = 0x3E5C9D36 := by decide +kernel
/-- The example of R407. -/
theorem test_setadsr :
    reg (after .envSetadsr (args 0x3F000000 0x3E800000 0x3F800000 0x3F000001 box)) .envAtkP = 0x3F000000 ∧
    reg (after .envSetadsr (args 0x3F000000 0x3E800000 0x3F800000 0x3F000001 box)) .envDecP = 0x3E800000 ∧
    reg (after .envSetadsr (args 0x3F000000 0x3E800000 0x3F800000 0x3F000001 box)) .envRelP = 0x3F800000 ∧
    reg (after .envSetadsr (args 0x3F000000 0x3E800000 0x3F800000 0x3F000001 box)) .envSusP = 0x3F000001 := by
  decide +kernel
theorem test_setfade : reg (after .envSetfade (args 0x3DCCCCCD 0 0 0 box)) .envFadeP = 0x3DCCCCCD := by decide +kernel
/-- P4, the first block: samples 0 to 3 of V-ENV1 through the implicit 1:1 configuration. -/
theorem test_play_direct :
    readBlock (after .envPlay (args 4 0 0 0 note)) .dst 0 4 = [0x3F48D8B2, 0x3F741E16, 0x3F0B9C9C, 0x3F03AC05] ∧
    reg (after .envPlay (args 4 0 0 0 note)) .rrcStat = 0x3 ∧ reg (after .envPlay (args 4 0 0 0 note)) .envBudget = 2 := by
  decide +kernel
/-- The lengths of P6 at N = 4: the cursor moves by the due chunk, 3, and the apply carries one sample. -/
theorem test_play_resample :
    reg (after .envPlay (args 4 0 0 0 (after .rrcConfig (args 3 2 4 0 note)))) .envCursor = 3 ∧
    reg (after .envPlay (args 4 0 0 0 (after .rrcConfig (args 3 2 4 0 note)))) .rrcCur = 1 ∧
    reg (after .envPlay (args 4 0 0 0 (after .rrcConfig (args 3 2 4 0 note)))) .rseCarry = 1 := by decide +kernel
theorem test_remain : reg (after .envRemain (envSamples 3 note).2) .res0 = 5 := by decide +kernel
/-- V-S2S. -/
theorem test_seconds :
    secToSamples 0x3C2A64C3 48000 = 499 ∧ secToSamples 0x3DCCCCCD 44100 = 4410 ∧
    secToSamples 0xBF800000 48000 = 0 ∧ secToSamples 0x7149F2CA 48000 = 2147483647 := by decide +kernel
/-- 42 R402 and 70 R583, row 3: an infinite duration, at a rate and at rate 0. -/
theorem test_seconds_at_rate_zero :
    secToSamples 0x7F800000 1 = 2147483647 ∧ secToSamples 0x7F800000 0 = 0 ∧ secToSamples 0x3F800000 0 = 0 := by
  decide +kernel
/-- V-CONV. -/
theorem test_conv :
    convCode 0x7FFF = 0x3F800000 ∧ convCode 0x4000 = 0x3F000100 ∧ convCode 0x0001 = 0x38000100 ∧
    convCode 0xFFFF = 0xB8000000 ∧ convCode 0xC000 = 0xBF000000 ∧ convCode 0x8000 = 0xBF800000 := by decide +kernel
/-- V-FACT. -/
theorem test_factor :
    envFactor 1 = 0x3DCCCCCD ∧ envFactor 2 = 0x3E5C9D36 ∧ envFactor 8 = 0x3F1977CD ∧ envFactor 100 = 0x3F7496F0 ∧
    envFactor 48000 = 0x3F7FF9B6 := by decide +kernel

/-! ### Witnesses: for each statement with hypotheses, a state that meets them -/

/-- A state whose host does this next. -/
def doing (op : BusOp) (s : State) : State := { s with host := [{ rst := false, bus := op }] }

/-- A state with a command in flight. -/
def running (w : Word) (left : Nat) (s : State) : State := { s with pending := some ⟨w, left⟩ }

theorem witness_DecodingIsTotalAndExact : wordLegal 0x00000017 = false ∧ wordLegal 0x00000035 = true := by decide

theorem witness_StepRunsTheDecodedCommand :
    nextCycle (running 0x16 1 (doing (.write 0x10 5) box)) = ⟨false, .write 0x10 5⟩ ∧
    (running 0x16 1 (doing (.write 0x10 5) box)).pending = some ⟨0x16, 1⟩ ∧ decode 0x16 = .ok .rseGcd ∧
    (∃ t, busCycle (busLatency (.write 0x10 5) (takeCycle (running 0x16 1 (doing (.write 0x10 5) box)))) (.write 0x10 5)
      (takeCycle (running 0x16 1 (doing (.write 0x10 5) box))) = .ok t) ∧
    nextCycle (running 0x16 1 (doing .idle box)) = ⟨false, .idle⟩ ∧ idle box :=
  ⟨rfl, rfl, rfl, ⟨_, rfl⟩, rfl, rfl⟩

theorem witness_BusyLastsExactlyLatCycles :
    ∃ s : State, idle s ∧ (0x008 : Word).toNat / 4 = 2 ∧
      s.host = ⟨false, .write 0x008 0x20⟩ :: (List.replicate (latency 0x20 s - 1) ⟨false, .idle⟩ ++ []) :=
  ⟨{ box with host := ⟨false, .write 0x008 0x20⟩ :: (List.replicate (latency 0x20 box - 1) ⟨false, .idle⟩ ++ []) },
    rfl, rfl, rfl⟩

theorem witness_WriteWhileBusyOnlySetsColl :
    nextCycle (running 0x34 3 (doing (.write 0x4000 9) box)) = ⟨false, .write 0x4000 9⟩ ∧
    (running 0x34 3 (doing (.write 0x4000 9) box)).pending = some ⟨0x34, 1 + 2⟩ ∧
    nextCycle (running 0x34 1 (doing (.write 0x008 9) box)) = ⟨false, .write 0x008 9⟩ ∧
    (running 0x34 1 (doing (.write 0x008 9) box)).pending = some ⟨0x34, 1⟩ := ⟨rfl, rfl, rfl, rfl⟩

theorem witness_CollisionReachesNoCommand : (∃ t, exec .rseGcd box = .next t) ∧ ∃ t, exec .srst box = .next t :=
  ⟨⟨_, rfl⟩, ⟨_, rfl⟩⟩

/-- Idle; BUSY with cycles left, at the last listed register; in the last cycle; and the first offset past the list. -/
theorem witness_ReadsHaveNoSideEffect :
    nextCycle (doing (.read 0x128) box) = ⟨false, .read 0x128⟩ ∧ idle (doing (.read 0x128) box) ∧
    nextCycle (running 0x34 2 (doing (.read 0x057) box)) = ⟨false, .read 0x057⟩ ∧
    (running 0x34 2 (doing (.read 0x057) box)).pending = some ⟨0x34, 0 + 2⟩ ∧
    4 * ((0x057 : Word).toNat / 4) ∈ busyReadable ∧
    nextCycle (running 0x34 1 (doing (.read 0x00C) box)) = ⟨false, .read 0x00C⟩ ∧
    (running 0x34 1 (doing (.read 0x00C) box)).pending = some ⟨0x34, 1⟩ ∧
    4 * ((0x00C : Word).toNat / 4) ∈ busyReadable ∧
    nextCycle (running 0x34 1 (doing (.read 0x058) box)) = ⟨false, .read 0x058⟩ ∧
    4 * ((0x058 : Word).toNat / 4) ∉ busyReadable ∧ 4 * ((0x008 : Word).toNat / 4) ∉ busyReadable ∧
    4 * ((0x020 : Word).toNat / 4) ∉ busyReadable := by decide

/-- 70_reset R591: STATUS reads BUSY = 1 in a command's last cycle, and RES0 may not be read there. -/
theorem test_read_while_busy :
    (match step (running 0x00 1 (doing (.read 0x00C) box)) with
      | .next t => t.rdata == 1 && t.pending == none
      | _ => false) = true ∧
    step (running 0x00 1 (doing (.read 0x020) box)) = .fault (.busyRead 0x020) := ⟨by decide +kernel, rfl⟩

theorem witness_StatusFieldsAndWriteOneToClear :
    idle (doing (.write 0x00C 0x7E) box) ∧ (0x00C : Word).toNat / 4 = 3 ∧ (0x00F : Word).toNat / 4 = 3 ∧
    nextCycle (doing (.write 0x00C 0x7E) box) = ⟨false, .write 0x00C 0x7E⟩ := by decide

theorem witness_AddressMapIsExact :
    tiny.legal = true ∧ locate tiny 0x00010000 = .elem .smp 0 ∧ (0x350, (0 : Word)) ∈ registerReads box ∧
    4 * ((0x353 : Word).toNat / 4) = 0x350 ∧ locate tiny 0x353 = .reg .envTgt := by decide

/-- The places of MODE, BYP, VALID, BYPSEL, SEL and of the codes of ENV_STATE (10_state R60, R70, R83). -/
theorem test_status_registers :
    reg engineByp .rseStat = 5 ∧ reg (failEngine box) .rseStat = 2 ∧
    reg { box with rrc := { box.rrc with valid := true, sel := 2 } } .rrcStat = 9 ∧
    reg { box with rrc := { box.rrc with bypsel := true } } .rrcStat = 2 ∧
    reg { box with env := { box.env with phase := .fadeout } } .envState = 5 := by decide +kernel

theorem witness_ReadOnlyAndUnmappedWritesAreIgnored :
    idle (doing (.write 0x350 1) box) ∧ nextCycle (doing (.write 0x350 1) box) = ⟨false, .write 0x350 1⟩ ∧
    locate tiny 0x350 = .reg .envTgt ∧ Reg.envTgt ∉ [Reg.cmd, .status, .arg0, .arg1, .arg2, .arg3, .envCtrl, .envFs, .envSlen] ∧
    nextCycle (doing (.write 0x2540 1) box) = ⟨false, .write 0x2540 1⟩ ∧ locate tiny 0x2540 = .krom 2 80 ∧
    nextCycle (doing (.write 0x804C 1) box) = ⟨false, .write 0x804C 1⟩ ∧ locate tiny 0x804C = .elem .out 19 ∧
    nextCycle (doing (.write 0x8050 1) box) = ⟨false, .write 0x8050 1⟩ ∧ locate tiny 0x8050 = .unmapped ∧
    nextCycle (doing (.read 0x8050) box) = ⟨false, .read 0x8050⟩ := by decide

theorem witness_IdVersionAndCapacitiesRead :
    ((0x054, .capSmp, box.inst.capSmp) : Word × Reg × Word) ∈
      ([(0x000, .id, 0x44535041), (0x004, .version, 0x00000007), (0x040, .capKmax, box.inst.capKmax),
      (0x044, .capHist, box.inst.capHist), (0x048, .capIn, box.inst.capIn), (0x04C, .capOut, box.inst.capOut),
      (0x050, .capDst, box.inst.capDst), (0x054, .capSmp, box.inst.capSmp)] : List (Word × Reg × Word)) := by decide

theorem witness_HostRegistersKeepWhatIsWritten :
    idle (doing (.write 0x308 0xFFFFFFFF) box) ∧
    nextCycle (doing (.write 0x308 0xFFFFFFFF) box) = ⟨false, .write 0x308 0xFFFFFFFF⟩ ∧
    (0x010 : Word).toNat / 4 = 4 ∧ (0x014 : Word).toNat / 4 = 5 ∧ (0x018 : Word).toNat / 4 = 6 ∧
    (0x01C : Word).toNat / 4 = 7 ∧ (0x300 : Word).toNat / 4 = 0x300 / 4 ∧ (0x304 : Word).toNat / 4 = 0x304 / 4 ∧
    (0x308 : Word).toNat / 4 = 0x308 / 4 := by decide

theorem witness_WordWindowsKeepTheWordWritten :
    tiny.legal = true ∧ idle (doing (.write 0xC01C 3) box) ∧
    nextCycle (doing (.write 0xC01C 3) box) = ⟨false, .write 0xC01C 3⟩ ∧ locate tiny 0xC01C = .elem .dst 7 ∧
    locate tiny 0x1140 = .elem .kmem 80 ∧ locate tiny 0x4000 = .elem .inp 0 ∧
    Window.dst ≠ .out ∧ Window.dst ≠ .smp := by decide

theorem witness_SmpKeepsSixteenBits :
    tiny.legal = true ∧ idle (doing (.write 0x1003C 3) box) ∧
    nextCycle (doing (.write 0x1003C 3) box) = ⟨false, .write 0x1003C 3⟩ ∧ locate tiny 0x1003C = .elem .smp 15 := by decide

theorem witness_RegistersHoldTheirResetValues : idle box := rfl

theorem witness_PowerOnResetCycle :
    nextCycle { running 0x34 2 box with host := [⟨true, .write 0x008 1⟩] } = ⟨true, .write 0x008 1⟩ := rfl

/-- The largest block that fits OUT: `17 + 3 = CAP_OUT`. -/
theorem witness_RseInitBuildsTheFilterEngine :
    ∃ (s : State) (g u d n klen phl : Nat),
      g = Nat.gcd (Nat.max s.arg.a0.toNat 1) (Nat.max s.arg.a1.toNat 1) ∧
      u = Nat.max s.arg.a0.toNat 1 / g ∧ d = Nat.max s.arg.a1.toNat 1 / g ∧
      n = s.arg.a2.toNat ∧ klen = s.arg.a3.toNat ∧ phl = (klen + u - 1) / u ∧ klen ≤ s.inst.capKmax.toNat ∧
      ¬(u = 1 ∧ d = 1 ∧ (klen = 0 ∨ (klen = 1 ∧ readElem s .kmem 0 = 0x3F800000))) ∧
      phl * u - 1 ≤ s.inst.capHist.toNat ∧ (n * d + u - 1) / u ≤ s.inst.capIn.toNat ∧
      n + (u + d - 1) / d = s.inst.capOut.toNat :=
  ⟨args 3 1 17 3 box, 1, 3, 1, 17, 3, 1, by decide +kernel⟩

theorem witness_RseInitBuildsTheBypassEngine :
    ∃ (s : State) (g n klen : Nat),
      g = Nat.gcd (Nat.max s.arg.a0.toNat 1) (Nat.max s.arg.a1.toNat 1) ∧
      Nat.max s.arg.a0.toNat 1 / g = 1 ∧ Nat.max s.arg.a1.toNat 1 / g = 1 ∧
      n = s.arg.a2.toNat ∧ klen = s.arg.a3.toNat ∧ klen ≤ s.inst.capKmax.toNat ∧
      (klen = 0 ∨ (klen = 1 ∧ readElem s .kmem 0 = 0x3F800000)) ∧ n = s.inst.capIn.toNat ∧ n ≤ s.inst.capOut.toNat :=
  ⟨args 0 1 8 1 (fill .kmem [0x3F800000] box), 1, 8, 1, by decide +kernel⟩

/-- One past CAP_OUT: `18 + 3`. -/
theorem witness_RseInitOverCapacityFails :
    ∃ (s : State) (g u d n klen : Nat),
      g = Nat.gcd (Nat.max s.arg.a0.toNat 1) (Nat.max s.arg.a1.toNat 1) ∧
      u = Nat.max s.arg.a0.toNat 1 / g ∧ d = Nat.max s.arg.a1.toNat 1 / g ∧
      n = s.arg.a2.toNat ∧ klen = s.arg.a3.toNat ∧
      ¬(u = 1 ∧ d = 1 ∧ (klen = 0 ∨ (klen = 1 ∧ readElem s .kmem 0 = 0x3F800000))) ∧
      s.inst.capOut.toNat + 1 = n + (u + d - 1) / d :=
  ⟨args 3 1 18 3 box, 1, 3, 1, 18, 3, by decide +kernel⟩

/-- One past CAP_KMAX. -/
theorem witness_RseInitOverCapacityFails_kernel :
    ∃ (s : State) (g u d n klen : Nat),
      g = Nat.gcd (Nat.max s.arg.a0.toNat 1) (Nat.max s.arg.a1.toNat 1) ∧
      u = Nat.max s.arg.a0.toNat 1 / g ∧ d = Nat.max s.arg.a1.toNat 1 / g ∧
      n = s.arg.a2.toNat ∧ klen = s.arg.a3.toNat ∧
      s.inst.capKmax.toNat + 1 = klen :=
  ⟨args 3 1 4 82 box, 1, 3, 1, 4, 82, by decide +kernel⟩

/-- One past CAP_IN in bypass. -/
theorem witness_RseInitOverCapacityFails_bypass :
    ∃ (s : State) (g u d n klen : Nat),
      g = Nat.gcd (Nat.max s.arg.a0.toNat 1) (Nat.max s.arg.a1.toNat 1) ∧
      u = Nat.max s.arg.a0.toNat 1 / g ∧ d = Nat.max s.arg.a1.toNat 1 / g ∧
      n = s.arg.a2.toNat ∧ klen = s.arg.a3.toNat ∧
      u = 1 ∧ d = 1 ∧ (klen = 0 ∨ (klen = 1 ∧ readElem s .kmem 0 = 0x3F800000)) ∧
      s.inst.capIn.toNat + 1 = n :=
  ⟨args 1 1 9 0 box, 1, 1, 1, 9, 0, by decide +kernel⟩

/-- One past CAP_HIST. -/
theorem witness_RseInitOverCapacityFails_history :
    ∃ (s : State) (g u d n klen : Nat),
      g = Nat.gcd (Nat.max s.arg.a0.toNat 1) (Nat.max s.arg.a1.toNat 1) ∧
      u = Nat.max s.arg.a0.toNat 1 / g ∧ d = Nat.max s.arg.a1.toNat 1 / g ∧
      n = s.arg.a2.toNat ∧ klen = s.arg.a3.toNat ∧
      ¬(u = 1 ∧ d = 1 ∧ (klen = 0 ∨ (klen = 1 ∧ readElem s .kmem 0 = 0x3F800000))) ∧
      s.inst.capHist.toNat + 1 = (klen + u - 1) / u * u - 1 :=
  ⟨args 85 1 1 1 box, 1, 85, 1, 1, 1, by decide +kernel⟩

/-- One past CAP_IN with a filter. -/
theorem witness_RseInitOverCapacityFails_input :
    ∃ (s : State) (g u d n klen : Nat),
      g = Nat.gcd (Nat.max s.arg.a0.toNat 1) (Nat.max s.arg.a1.toNat 1) ∧
      u = Nat.max s.arg.a0.toNat 1 / g ∧ d = Nat.max s.arg.a1.toNat 1 / g ∧
      n = s.arg.a2.toNat ∧ klen = s.arg.a3.toNat ∧
      ¬(u = 1 ∧ d = 1 ∧ (klen = 0 ∨ (klen = 1 ∧ readElem s .kmem 0 = 0x3F800000))) ∧
      s.inst.capIn.toNat + 1 = (n * d + u - 1) / u :=
  ⟨args 1 9 1 1 box, 1, 1, 9, 1, 1, by decide +kernel⟩

theorem witness_RefusedRseCommandsOnlyRecord :
    box.rse.mode ≠ .active ∧ engine32.rse.mode = .active ∧ engine32.rse.inmax.toNat < (args 4 0 0 0 engine32).arg.a0.toNat ∧
    1 ≤ engine32.rse.u.toNat ∧
    2 ^ 32 ≤ ((args 0xFFFFFFFF 0 0 0 (after .rseInit (args 1 2 4 1 box))).arg.a0.toNat *
      (after .rseInit (args 1 2 4 1 box)).rse.d.toNat + (after .rseInit (args 1 2 4 1 box)).rse.u.toNat - 1) /
      (after .rseInit (args 1 2 4 1 box)).rse.u.toNat ∧
    2 ^ 32 ≤ (engine32.rse.u.toNat * (args 0xFFFFFFFF 0 0 0 engine32).arg.a0.toNat + engine32.rse.d.toNat - 1) /
      engine32.rse.d.toNat := by decide +kernel

theorem witness_RseApplyInBypassCopies :
    engineByp.inst.legal = true ∧ (args 8 0 0 0 engineByp).arg.a0.toNat = 8 ∧ engineByp.rse.mode = .active ∧
    engineByp.rse.byp = true ∧ 8 = engineByp.rse.inmax.toNat ∧ 8 ≤ engineByp.inst.capOut.toNat := by decide +kernel

theorem witness_RseApplyDeliversWithCarry :
    (args 3 0 0 0 engine32).arg.a0.toNat = 3 ∧ engine32.rse.n.toNat = 4 ∧ engine32.rse.mode = .active ∧
    engine32.rse.byp = false ∧ 3 = engine32.rse.inmax.toNat ∧ 4 ≤ engine32.inst.capOut.toNat ∧
    1 ≤ engine32.rse.d.toNat := by decide +kernel

theorem witness_KeptOutputsAreTheDecimatedLoop :
    1 ≤ engine32.rse.u.toNat ∧ 1 ≤ engine32.rse.d.toNat ∧
    engine32.rse.h.toNat = engine32.rse.phl.toNat * engine32.rse.u.toNat - 1 := by decide +kernel

/-- Partial sums of a filtered position of `engine32`: its one tap is 1.0. -/
theorem witness_KeptOutputsAreTheDecimatedLoop_accumulation :
    ∃ acc : Nat → Word, acc 0 = 0x00000000 ∧ acc 1 = 0x40000000 ∧
      ∀ t, t < engine32.rse.phl.toNat →
        acc (t + 1) = F32.add (0 + 2 * t + 1) (acc t)
          (F32.mul (0 + 2 * t)
            (if 0 + engine32.rse.u.toNat * t < engine32.rse.klen.toNat then
              engine32.rse.kl.getD (0 + engine32.rse.u.toNat * t) 0x00000000 else 0x00000000)
            (([0, 0, 0x40000000] : List Word).getD (engine32.rse.h.toNat + 0 - t) 0x00000000)) := by
  refine ⟨fun k => if k = 0 then 0 else 0x40000000, rfl, rfl, fun t ht => ?_⟩
  have hp : engine32.rse.phl.toNat = 1 := by decide +kernel
  have h0 : t = 0 := by omega
  subst h0
  decide +kernel

theorem witness_NonFiniteSamplesStayNonFinite :
    0 < engine32.rse.phl.toNat ∧
    F32.isFinite (([0, 0, 0x7F800000] : List Word).getD (engine32.rse.h.toNat + 0 - 0) 0) = false ∧
    F32.isFinite (([0, 0, 0xFFC00001] : List Word).getD (engine32.rse.h.toNat + 0 - 0) 0) = false := by decide +kernel

theorem witness_ChunkingDoesNotChangeTheStream :
    1 ≤ engine32.rse.u.toNat ∧ engine32.rse.dph.toNat < engine32.rse.d.toNat ∧
    engine32.rse.hist.length = engine32.rse.h.toNat ∧ engine32.rse.phl.toNat ≤ engine32.rse.h.toNat + 1 := by
  decide +kernel

/-- The 3:2 engine after two negotiated applies. -/
def engineTwo : State := after .rseApply (args 3 0 0 0 (after .rseApply (args 3 0 0 0 (fill .inp [0, 0, 0] engine32))))

/-- The first apply of a cycle and the last one. -/
theorem witness_NegotiatedChunksNeverUnderrunOrOverflow :
    (args 3 0 0 0 engine32).rse.mode = .active ∧ engine32.rse.byp = false ∧ engine32.rse.n.toNat = 4 ∧
    engine32.rse.u.toNat = 3 ∧ engine32.rse.d.toNat = 2 ∧ engine32.rse.inmax.toNat = ceilDiv (4 * 2) 3 ∧
    engine32.rse.offmax.toNat = ceilDiv 3 2 ∧
    engine32.rse.carrybuf.length = ceilDiv (3 * ceilDiv (0 * 4 * 2) 3) 2 - 0 * 4 ∧
    (engine32.rse.dph.toNat : Int) = (-((3 * ceilDiv (0 * 4 * 2) 3 : Nat) : Int)) % 2 ∧
    (args 3 0 0 0 engine32).arg.a0.toNat = seqLen 4 3 2 (0 % (negotiate 4 3 2).cyc) ∧
    engineTwo.rse.carrybuf.length = ceilDiv (3 * ceilDiv (2 * 4 * 2) 3) 2 - 2 * 4 ∧
    (engineTwo.rse.dph.toNat : Int) = (-((3 * ceilDiv (2 * 4 * 2) 3 : Nat) : Int)) % 2 ∧
    (args 2 0 0 0 engineTwo).arg.a0.toNat = seqLen 4 3 2 (2 % (negotiate 4 3 2).cyc) ∧
    (2 + 1) % (negotiate 4 3 2).cyc = 0 := by decide +kernel

theorem witness_RseIsbypGivesTheBypassBit : engineIdleGood box.rse ∧ box.rse.mode ≠ .active := by decide

theorem witness_RseLeninGivesTheNegotiation :
    engine32.rse.mode = .active ∧ engine32.rse.u.toNat = 3 ∧
    (args 4 0 0 0 engine32).arg.a0.toNat * engine32.rse.d.toNat = 8 ∧ 8 % 3 ≠ 0 ∧ (8 + 3 - 1) / 3 < 2 ^ 32 ∧
    (args 6 0 0 0 engine32).arg.a0.toNat * engine32.rse.d.toNat = 12 ∧ 12 % 3 = 0 := by decide +kernel

theorem witness_RseLenoutGivesTheOutputCount :
    engine32.rse.mode = .active ∧ 1 ≤ engine32.rse.d.toNat ∧
    engine32.rse.u.toNat * (args 3 0 0 0 engine32).arg.a0.toNat ≤ engine32.rse.d.toNat * 5 ∧
    (∀ o', engine32.rse.u.toNat * (args 3 0 0 0 engine32).arg.a0.toNat ≤ engine32.rse.d.toNat * o' → 5 ≤ o') ∧
    5 < 2 ^ 32 := by
  have hu : engine32.rse.u.toNat = 3 := by decide +kernel
  have hd : engine32.rse.d.toNat = 2 := by decide +kernel
  have ha : (args 3 0 0 0 engine32).arg.a0.toNat = 3 := rfl
  refine ⟨by decide +kernel, by omega, by rw [hu, hd, ha]; decide, ?_, by decide⟩
  intro o' h
  rw [hu, hd, ha] at h
  omega

/-- Factors that clamp to 4:1, with blocks that just fit OUT. -/
theorem witness_RrcConfigBuildsTheFilter :
    ∃ (s : State) (uc dc m g u d n klen : Nat),
      s.inst.legal = true ∧ uc = clamped s.arg.a0.toInt ∧ dc = clamped s.arg.a1.toInt ∧ m = Nat.max uc dc ∧
      g = Nat.gcd uc dc ∧ u = uc / g ∧ d = dc / g ∧ n = s.arg.a2.toNat ∧
      klen = (if m = 1 then 1 else 41 + 20 * (m - 2)) ∧
      2 ≤ m ∧ (n * d + u - 1) / u ≤ s.inst.capIn.toNat ∧ n + (u + d - 1) / d = s.inst.capOut.toNat :=
  ⟨args 7 0xFFFFFFFE 16 0 box, 4, 1, 4, 1, 4, 1, 16, 81, by decide +kernel⟩

theorem witness_RrcConfigBuildsTheBypass :
    box.inst.legal = true ∧ clamped (args 0 1 8 0 box).arg.a0.toInt = 1 ∧ clamped (args 0 1 8 0 box).arg.a1.toInt = 1 ∧
    (args 0 1 8 0 box).arg.a2.toNat = 8 ∧ 8 = box.inst.capIn.toNat ∧ 8 ≤ box.inst.capOut.toNat := by decide +kernel

/-- One past CAP_OUT with a kernel. -/
theorem witness_RrcConfigOverCapacityFails :
    ∃ (s : State) (uc dc m g u d n klen : Nat),
      s.inst.legal = true ∧ uc = clamped s.arg.a0.toInt ∧ dc = clamped s.arg.a1.toInt ∧ m = Nat.max uc dc ∧
      g = Nat.gcd uc dc ∧ u = uc / g ∧ d = dc / g ∧ n = s.arg.a2.toNat ∧
      klen = (if m = 1 then 1 else 41 + 20 * (m - 2)) ∧
      m ≠ 1 ∧ s.inst.capOut.toNat + 1 = n + (u + d - 1) / d :=
  ⟨args 4 1 17 0 box, 4, 1, 4, 1, 4, 1, 17, 81, by decide +kernel⟩

/-- One past CAP_IN in bypass. -/
theorem witness_RrcConfigOverCapacityFails_bypass :
    ∃ (s : State) (uc dc m g u d n klen : Nat),
      s.inst.legal = true ∧ uc = clamped s.arg.a0.toInt ∧ dc = clamped s.arg.a1.toInt ∧ m = Nat.max uc dc ∧
      g = Nat.gcd uc dc ∧ u = uc / g ∧ d = dc / g ∧ n = s.arg.a2.toNat ∧
      klen = (if m = 1 then 1 else 41 + 20 * (m - 2)) ∧
      m = 1 ∧ s.inst.capIn.toNat + 1 = (n * d + u - 1) / u :=
  ⟨args 1 1 9 0 box, 1, 1, 1, 1, 1, 1, 9, 1, by decide +kernel⟩

/-- The small instance configured at 3:2 for blocks of 4. -/
def configured : State := after .rrcConfig (args 3 2 4 0 box)

theorem witness_RrcNextGivesTheDueLength :
    box.rrc.valid = false ∧ configured.rrc.valid = true ∧ 1 ≤ configured.rse.u.toNat ∧ 1 ≤ configured.rrc.cyc.toNat ∧
    ceilDiv (configured.rrc.nblk.toNat * configured.rse.d.toNat) configured.rse.u.toNat < 2 ^ 32 := by decide +kernel

theorem witness_NegotiatedSequenceProperties : (1 : Nat) ≤ 3 ∧ (negotiate 4 3 2).min ≠ (negotiate 4 3 2).max := by decide

/-- A NaN, both infinities, both zeros, the least positive datum and a plain one. -/
theorem witness_SecondsConvertByFloor :
    F32.isNaN 0x7F800001 = true ∧ (F32.isInf 0xFF800000 = true ∧ F32.sign 0xFF800000 = true) ∧
    (F32.isInf 0x7F800000 = true ∧ F32.sign 0x7F800000 = false ∧ 1 ≤ (1 : Word).toNat) ∧
    (F32.isFinite 0x80000000 = true ∧ F32.signedMag 0x80000000 = 0) ∧
    (F32.isFinite 0x00000001 = true ∧ F32.signedMag 0x00000001 = 1) := by decide +kernel

theorem witness_EnvOffEntersFadeoutOrFinishes :
    (noteFade.env.phase ≠ .fadeout ∧ noteFade.env.phase ≠ .finished ∧ noteFade.env.nf ≠ 0) ∧
    (note.env.phase ≠ .fadeout ∧ note.env.phase ≠ .finished ∧ note.env.nf = 0) ∧
    (after .envOff noteFade).env.phase = .fadeout ∧ box.env.phase = .finished := by decide +kernel

theorem witness_EnvRemainGivesTheUnplayedSamples : note.env.cursor.toNat ≤ note.env.len.toNat := by decide +kernel

theorem witness_EnvPlayWithoutAudio :
    box.inst.capDst.toNat < (args 9 0 0 0 box).arg.a0.toNat ∧ (args 8 0 0 0 box).arg.a0.toNat = box.inst.capDst.toNat ∧
    box.env.smpv = false ∧ (after .envOff note).env.smpv = true ∧ (after .envOff note).env.dstv = true ∧
    (after .envOff note).env.phase = .finished := by decide +kernel

/-- A note in a configured bypass, in replace and in append mode. -/
def playing : State := args 8 0 0 0 (after .rrcConfig (args 1 1 8 0 note))

theorem witness_EnvPlayDirectWritesTheSamples :
    playing.arg.a0.toNat = 8 ∧ 8 = playing.inst.capDst.toNat ∧ playing.env.smpv = true ∧ playing.env.dstv = true ∧
    playing.env.phase ≠ .finished ∧ playing.rrc.valid = true ∧ playing.rrc.nblk = playing.arg.a0 ∧
    playing.rse.byp = true ∧ playing.env.append = false ∧
    ({ playing with env := { playing.env with append := true } } : State).env.append = true := by decide +kernel

/-- A note in a 3:2 configuration. -/
def pitched : State := args 4 0 0 0 (after .rrcConfig (args 3 2 4 0 note))

theorem witness_EnvPlayResampleFiltersTheSamples :
    pitched.inst.legal = true ∧ pitched.arg.a0.toNat = 4 ∧ 4 ≤ pitched.inst.capDst.toNat ∧ pitched.env.smpv = true ∧
    pitched.env.dstv = true ∧ pitched.env.phase ≠ .finished ∧ pitched.rrc.valid = true ∧
    pitched.rrc.nblk = pitched.arg.a0 ∧ 1 ≤ pitched.rrc.cyc.toNat ∧ pitched.rse.byp = false ∧
    pitched.rse.n = pitched.arg.a0 ∧ 3 = seqLen 4 pitched.rse.u.toNat pitched.rse.d.toNat pitched.rrc.cur.toNat ∧
    3 ≤ pitched.inst.capIn.toNat ∧ 4 ≤ pitched.inst.capOut.toNat ∧ pitched.env.append = false := by decide +kernel

theorem witness_EnvPlayReconfiguresLikeRrcConfig :
    ∃ s c : State, s.arg.a0.toNat ≤ s.inst.capDst.toNat ∧ s.env.smpv = true ∧ s.env.dstv = true ∧
      s.env.phase ≠ .finished ∧ s.rrc.valid = false ∧
      exec .rrcConfig { s with arg := ⟨s.rrc.upreq, s.rrc.downreq, s.arg.a0, s.arg.a3⟩ } = .next c ∧
      c.rrc.valid = true :=
  ⟨args 4 0 0 0 note, after .rrcConfig { args 4 0 0 0 note with arg := ⟨1, 1, 4, 0⟩ }, by decide +kernel, by decide +kernel,
    by decide +kernel, by decide +kernel, by decide +kernel, rfl, by decide +kernel⟩

/-- A request of 4:1, kept from a failed configuration, that fails again at this block length. -/
def hopeless : State :=
  args 2 0 0 0 { note with inst := { tiny with capOut := 5 }, rrc := { note.rrc with upreq := 4, downreq := 1 } }

theorem witness_EnvPlayReconfiguresAndFails :
    hopeless.arg.a0.toNat ≤ hopeless.inst.capDst.toNat ∧ hopeless.env.smpv = true ∧ hopeless.env.dstv = true ∧
    hopeless.env.phase ≠ .finished ∧ hopeless.rrc.valid = false ∧
    (after .rrcConfig { hopeless with arg := ⟨4, 1, 2, 0⟩ }).rrc.valid = false := by decide +kernel

theorem witness_EnvSampleStepsTheEnvelope :
    (envSample box).1 = none ∧ (envSample note).1.isSome = true ∧
    box.env.phase = .finished ∧ (note.env.phase = .ready ∧ note.env.cursor.toNat < note.env.len.toNat) ∧
    (noteFade.env.phase ≠ .finished ∧ ({ noteFade.env with cursor := 16 } : Env).len.toNat ≤ 16) ∧
    (phaseRuns (envSamples 1 note).2.env.phase = true ∧ (envSamples 1 note).2.env.budget = 1 ∧
      (envSamples 1 note).2.env.cursor.toNat + 1 < (envSamples 1 note).2.env.len.toNat) ∧
    (phaseRuns (envSamples 3 note).2.env.phase = true ∧ 2 ≤ (envSamples 3 note).2.env.budget.toNat) ∧
    (phaseRuns (envSamples 7 note).2.env.phase = true ∧
      (envSamples 7 note).2.env.cursor.toNat + 1 = (envSamples 7 note).2.env.len.toNat) := by decide +kernel

theorem witness_AdvanceSkipsPhasesWithoutBudget :
    (EnvPhase.fadeout, note.env.nf, (0 : Word)) ∈ phaseTable note.env ∧ (phaseTable note.env)[4]?.map Prod.fst = some .fadeout ∧
    phasesAfter note.env.phase = [] ++ .attack :: [.decay, .sustain, .release, .fadeout] ∧
    phaseBudget note.env .attack ≠ 0 ∧
    (phasesAfter EnvPhase.fadeout = [] ∧ ∀ q ∈ phasesAfter EnvPhase.fadeout, phaseBudget note.env q = 0) := by decide +kernel

theorem witness_FactorIsCorrectlyRounded : (1 : Nat) ≤ 1 ∧ F32.isFinite 0x3DCCCCCD = true := by decide

theorem witness_FullNoteVisitsThePhasesInOrder :
    ∃ s t : State, exec .envOn s = .next t ∧
      t.env.na.toNat + t.env.nd.toNat + t.env.nr.toNat ≤ t.env.len.toNat ∧ 0 < t.env.len.toNat :=
  ⟨note, after .envOn note, rfl, by decide +kernel⟩

theorem witness_NoteOffFadesForItsBudget :
    (envSamples 4 noteFade).2.env.phase = .sustain ∧ (envSamples 4 noteFade).2.env.nf ≠ 0 ∧
    (envSamples 4 noteFade).2.env.cursor.toNat + (envSamples 4 noteFade).2.env.nf.toNat ≤
      (envSamples 4 noteFade).2.env.len.toNat := by decide +kernel

/-- The largest and a subnormal finite datum, both zeros, both infinities and a NaN. -/
theorem witness_ArithmeticRoundsToNearestEven :
    F32.isFinite 0x7F7FFFFF = true ∧ F32.isFinite 0x80000001 = true ∧ F32.signedMag 0x80000001 ≠ 0 ∧
    F32.isFinite 0x80000000 = true ∧ F32.signedMag 0x80000000 = 0 ∧ F32.signedMag 0x00000000 = 0 ∧
    F32.isNaN 0xFFC00001 = true ∧ F32.isInf 0x7F800000 = true ∧ F32.isInf 0xFF800000 = true ∧
    F32.sign 0x7F800000 ≠ F32.sign 0xFF800000 ∧ F32.isNaN 0x7F800000 = false := by
  decide +kernel

/-- IEEE 754: zeros of both signs, an infinity, a division by zero. -/
theorem test_special_operands :
    F32.add 0 0x80000000 0x80000000 = 0x80000000 ∧ F32.add 0 0x80000000 0x00000000 = 0x00000000 ∧
    F32.sub 0 0x80000000 0x00000000 = 0x80000000 ∧ F32.mul 0 0x80000000 0x3F800000 = 0x80000000 ∧
    F32.sub 0 0x3F800000 0x7F800000 = 0xFF800000 ∧ F32.div 0 0xBF800000 0x00000000 = 0xFF800000 ∧
    F32.div 0 0xBF800000 0x7F800000 = 0x80000000 ∧ F32.eq 0x80000000 0x00000000 = true := by decide +kernel

theorem witness_SampleCodesConvert : (0 : Int) ≤ (0x7FFF : Code).toInt ∧ (0x8000 : Code).toInt < 0 := by decide

theorem witness_EveryStepKeepsTheInvariant :
    ∃ s s' : State, State.Inv s ∧ step s = .next s' ∧ s.rse.mode = .uninit :=
  ⟨doing (.write 0x010 7) box, args 7 0 0 0 box,
    ⟨by decide, by decide, ⟨by decide, by decide, by decide, by decide⟩, by decide, by decide, by decide⟩, rfl, rfl⟩

theorem witness_FinishedIsTerminal :
    box.env.phase = .finished ∧ (∃ t, exec .envPlay box = .next t) ∧ Instr.rseGcd ≠ .envOn ∧
    ∃ t, exec .rseGcd box = .next t := ⟨rfl, ⟨_, rfl⟩, by decide, ⟨_, rfl⟩⟩

theorem witness_ErrorRecordAndStickyFlagsPersist :
    Instr.rseApply ≠ .srst ∧ (∃ t, exec .rseApply box = .next t) ∧ box.status.err = false ∧
    (after .rseApply box).status.err = true ∧ (after .rseApply (after .rseApply box)).status.errmult = true := by
  refine ⟨by decide, ⟨_, rfl⟩, rfl, by decide +kernel, by decide +kernel⟩

theorem witness_CommandsWriteOnlyTheirRegisters :
    (∃ t, exec .nop box = .next t) ∧ Instr.nop ≠ .srst ∧ writesRes .nop = false ∧
    .nop ∉ [Instr.srst, .rseInit, .rseDeinit, .rseApply, .rrcConfig, .envPlay] ∧
    .nop ∉ [Instr.srst, .rseInit, .rseDeinit, .rrcConfig, .rrcNext, .envPlay] ∧
    .nop ∉ [Instr.srst, .envOn, .envOff, .envSetadsr, .envSetfade, .envPlay] ∧
    .envPlay ∉ [Instr.srst, .envSetadsr, .envSetfade] ∧ .envPlay ∉ [Instr.srst, .envOn] :=
  ⟨⟨_, rfl⟩, by decide, rfl, by decide⟩

theorem witness_CommandsWriteOnlyTheirWindows :
    box.inst.legal = true ∧ (∃ t, exec .rseGcd box = .next t) ∧ writesWindow .rseGcd .out = false ∧
    writesWindow .envPlay .smp = false := ⟨by decide, ⟨_, rfl⟩, rfl, rfl⟩

end Sys2Proof.Tests
end

section
/-! SUPPORT. Binary32 as an ordered lattice of magnitudes: the fields of a datum, and the magnitude of its bits 30:0
as a strictly increasing function, with the format's classes as ranges of those bits. -/

namespace Sys2Proof.Machine

/-! ### Fields -/

/-- Bits 30:0 of a datum, exponent and fraction together. -/
def F32.bits (w : Word) : Nat := w.toNat % 2 ^ 31

theorem F32.bits_lt (w : Word) : F32.bits w < 2 ^ 31 := Nat.mod_lt _ (by decide)

theorem F32.expo_eq_expoBits (w : Word) : F32.expo w = Spec.expoBits w := by
  simp [F32.expo, Spec.expoBits, BitVec.extractLsb'_toNat, Nat.shiftRight_eq_div_pow]

theorem F32.frac_eq_fracBits (w : Word) : F32.frac w = Spec.fracBits w := by
  simp [F32.frac, Spec.fracBits, BitVec.extractLsb'_toNat]

theorem F32.expo_eq_bits_div (w : Word) : F32.expo w = F32.bits w / 2 ^ 23 := by
  rw [F32.expo_eq_expoBits, F32.bits, Spec.expoBits]; omega

theorem F32.frac_eq_bits_mod (w : Word) : F32.frac w = F32.bits w % 2 ^ 23 := by
  rw [F32.frac_eq_fracBits, F32.bits, Spec.fracBits]; omega

theorem F32.bits_pack (neg : Bool) {b : Nat} (h : b < 2 ^ 31) : F32.bits (F32.pack neg b) = b := by
  rw [F32.bits, F32.pack_toNat, Nat.mod_eq_of_lt h]; omega

/-- A datum is its sign and its bits 30:0. -/
theorem F32.eq_of_sign_of_bits {a b : Word} (hs : F32.sign a = F32.sign b) (hb : F32.bits a = F32.bits b) : a = b := by
  have msb : ∀ w : Word, F32.sign w = true ↔ 2 ^ 31 ≤ w.toNat := fun w => by
    rw [F32.sign, ← BitVec.msb_eq_getLsbD_last w, BitVec.msb_eq_decide, decide_eq_true_iff]
  have hs' : 2 ^ 31 ≤ a.toNat ↔ 2 ^ 31 ≤ b.toNat := by rw [← msb, ← msb, hs]
  have := a.isLt
  have := b.isLt
  refine BitVec.eq_of_toNat_eq ?_
  unfold F32.bits at hb
  omega

theorem F32.pack_sign_bits (w : Word) : F32.pack (F32.sign w) (F32.bits w) = w :=
  F32.eq_of_sign_of_bits (F32.sign_pack _ _) (F32.bits_pack _ (F32.bits_lt w))

theorem F32.infinity_eq_pack (neg : Bool) : Spec.infinity neg = F32.pack neg 0x7F800000 := by cases neg <;> decide

theorem F32.zero_eq_pack (neg : Bool) : Spec.zero neg = F32.pack neg 0 := by cases neg <;> decide

/-! ### Classes -/

theorem F32.isFinite_iff (w : Word) : F32.isFinite w = true ↔ F32.bits w < 0x7F800000 := by
  have := F32.bits_lt w
  rw [F32.isFinite, bne_iff_ne, F32.expo_eq_bits_div]; omega

theorem F32.isInf_iff (w : Word) : F32.isInf w = true ↔ F32.bits w = 0x7F800000 := by
  rw [F32.isInf, Bool.and_eq_true, beq_iff_eq, beq_iff_eq, F32.expo_eq_bits_div, F32.frac_eq_bits_mod]; omega

theorem F32.isNaN_iff (w : Word) : F32.isNaN w = true ↔ 0x7F800000 < F32.bits w := by
  have := F32.bits_lt w
  rw [F32.isNaN, Bool.and_eq_true, beq_iff_eq, bne_iff_ne, F32.expo_eq_bits_div, F32.frac_eq_bits_mod]; omega

theorem F32.isNaN_of_isFinite {w : Word} (h : F32.isFinite w = true) : F32.isNaN w = false := by
  rw [← Bool.not_eq_true, F32.isNaN_iff]; rw [F32.isFinite_iff] at h; omega

theorem F32.isInf_of_isFinite {w : Word} (h : F32.isFinite w = true) : F32.isInf w = false := by
  rw [← Bool.not_eq_true, F32.isInf_iff]; rw [F32.isFinite_iff] at h; omega

theorem F32.isNaN_of_isInf {w : Word} (h : F32.isInf w = true) : F32.isNaN w = false := by
  rw [← Bool.not_eq_true, F32.isNaN_iff]; rw [F32.isInf_iff] at h; omega

theorem F32.isFinite_of_isInf {w : Word} (h : F32.isInf w = true) : F32.isFinite w = false := by
  rw [← Bool.not_eq_true, F32.isFinite_iff]; rw [F32.isInf_iff] at h; omega

/-- An infinity is the one of its sign. -/
theorem F32.eq_infinity_of_isInf {w : Word} (h : F32.isInf w = true) : w = Spec.infinity (F32.sign w) := by
  rw [F32.infinity_eq_pack, ← (F32.isInf_iff w).1 h, F32.pack_sign_bits]

/-! ### The other sign -/

@[simp] theorem F32.bits_neg (w : Word) : F32.bits (F32.neg w) = F32.bits w := by
  have low : ∀ v : Word, F32.bits v = (v.extractLsb' 0 31).toNat := fun v => by
    simp [F32.bits, BitVec.extractLsb'_toNat]
  have hc : (0x80000000 : Word).extractLsb' 0 31 = 0#31 := by decide
  rw [low, low, F32.neg, BitVec.extractLsb'_xor, hc, BitVec.xor_zero]

@[simp] theorem F32.sign_neg (w : Word) : F32.sign (F32.neg w) = !F32.sign w := by
  have hc : (0x80000000 : Word).getLsbD 31 = true := by decide
  rw [F32.sign, F32.neg, BitVec.getLsbD_xor, hc, Bool.xor_true, F32.sign]

@[simp] theorem F32.isFinite_neg (w : Word) : F32.isFinite (F32.neg w) = F32.isFinite w := by
  rw [Bool.eq_iff_iff, F32.isFinite_iff, F32.isFinite_iff, F32.bits_neg]

@[simp] theorem F32.isInf_neg (w : Word) : F32.isInf (F32.neg w) = F32.isInf w := by
  rw [Bool.eq_iff_iff, F32.isInf_iff, F32.isInf_iff, F32.bits_neg]

@[simp] theorem F32.isNaN_neg (w : Word) : F32.isNaN (F32.neg w) = F32.isNaN w := by
  rw [Bool.eq_iff_iff, F32.isNaN_iff, F32.isNaN_iff, F32.bits_neg]

/-! ### Magnitudes -/

/-- The magnitude, in units of `2^-149`, that bits 30:0 stand for, and what they would stand for with further exponents
beyond the largest finite datum. -/
def F32.bitsMag (b : Nat) : Nat := (b - (b / 2 ^ 23 - 1) * 2 ^ 23) * 2 ^ (b / 2 ^ 23 - 1)

theorem F32.mag_eq_bitsMag (w : Word) : F32.mag w = F32.bitsMag (F32.bits w) := by
  unfold F32.mag F32.bitsMag
  rw [F32.expo_eq_bits_div, F32.frac_eq_bits_mod]
  generalize F32.bits w = b
  split
  · next h => rw [h]; simp; omega
  · congr 1; omega

/-- A mantissa `m` with the weight `2^sh` of its last bit, normalised unless `sh` is the least exponent; `m = 2^24` is
the carry into the next exponent. -/
theorem F32.bitsMag_mantissa {sh m : Nat} (hm : m ≤ 2 ^ 24) (hn : sh = 0 ∨ 2 ^ 23 ≤ m) :
    F32.bitsMag (sh * 2 ^ 23 + m) = m * 2 ^ sh := by
  unfold F32.bitsMag
  rcases hm.lt_or_eq with hlt | rfl
  · rw [show (sh * 2 ^ 23 + m) / 2 ^ 23 - 1 = sh by omega, Nat.add_sub_cancel_left]
  · rw [show (sh * 2 ^ 23 + 2 ^ 24) / 2 ^ 23 - 1 = sh + 1 by omega,
      show sh * 2 ^ 23 + 2 ^ 24 - (sh + 1) * 2 ^ 23 = 2 ^ 23 by omega, Nat.pow_succ]
    omega

theorem F32.bitsMag_succ (b : Nat) : F32.bitsMag (b + 1) = F32.bitsMag b + 2 ^ (b / 2 ^ 23 - 1) := by
  have hb : b = (b / 2 ^ 23 - 1) * 2 ^ 23 + (b - (b / 2 ^ 23 - 1) * 2 ^ 23) := by omega
  have hm : b - (b / 2 ^ 23 - 1) * 2 ^ 23 + 1 ≤ 2 ^ 24 := by omega
  have h := F32.bitsMag_mantissa (sh := b / 2 ^ 23 - 1) hm (by omega)
  rw [← Nat.add_assoc, ← hb] at h
  rw [h, Nat.add_mul, Nat.one_mul, F32.bitsMag]

theorem F32.bitsMag_strictMono : StrictMono F32.bitsMag :=
  strictMono_nat_of_lt_succ fun b => by rw [F32.bitsMag_succ]; exact Nat.lt_add_of_pos_right (Nat.two_pow_pos _)

/-! ### Values -/

/-- The factor 1 or -1 of a sign. -/
def F32.signFactor (neg : Bool) : ℚ := if neg then -1 else 1

@[simp] theorem F32.abs_signFactor (neg : Bool) : |F32.signFactor neg| = 1 := by cases neg <;> simp [F32.signFactor]

theorem F32.signFactor_ne_zero (neg : Bool) : F32.signFactor neg ≠ 0 := by cases neg <;> simp [F32.signFactor]

@[simp] theorem F32.signFactor_not (neg : Bool) : F32.signFactor (!neg) = -F32.signFactor neg := by
  cases neg <;> simp [F32.signFactor]

theorem F32.signFactor_injective : Function.Injective F32.signFactor := by decide

/-- The sign of a product and of a quotient. -/
theorem F32.signFactor_bne (x y : Bool) : F32.signFactor (x != y) = F32.signFactor x * F32.signFactor y := by
  cases x <;> cases y <;> simp [F32.signFactor]

theorem F32.unit_pos : 0 < F32.unit := Nat.two_pow_pos 149

theorem F32.unit_cast_pos : (0 : ℚ) < (F32.unit : ℚ) := by exact_mod_cast F32.unit_pos

theorem F32.signedMag_eq (w : Word) :
    (F32.signedMag w : ℚ) = F32.signFactor (F32.sign w) * F32.bitsMag (F32.bits w) := by
  rw [F32.signedMag, F32.mag_eq_bitsMag, F32.signFactor]
  split <;> simp

theorem F32.value_eq (w : Word) :
    F32.value w = F32.signFactor (F32.sign w) * (F32.bitsMag (F32.bits w) : ℚ) / (F32.unit : ℚ) := by
  rw [F32.value, F32.signedMag_eq]

theorem F32.value_neg (w : Word) : F32.value (F32.neg w) = -F32.value w := by
  simp [F32.value_eq, neg_div]

theorem F32.value_eq_zero_iff (w : Word) : F32.value w = 0 ↔ F32.mag w = 0 := by
  rw [F32.value_eq, F32.mag_eq_bitsMag, div_eq_zero_iff, mul_eq_zero]
  simp [F32.signFactor_ne_zero, F32.unit_cast_pos.ne']

/-- Values are equal only of equal data and of the two zeros. -/
theorem F32.value_eq_value_iff (a b : Word) :
    F32.value a = F32.value b ↔ a = b ∨ (F32.mag a = 0 ∧ F32.mag b = 0) := by
  have hu := F32.unit_cast_pos.ne'
  constructor
  · intro h
    by_cases ha : F32.mag a = 0
    · exact .inr ⟨ha, by rwa [← F32.value_eq_zero_iff, ← h, F32.value_eq_zero_iff]⟩
    have hpos : (0 : ℚ) < F32.bitsMag (F32.bits a) := by
      rw [← F32.mag_eq_bitsMag]; exact_mod_cast Nat.pos_of_ne_zero ha
    rw [F32.value_eq, F32.value_eq, div_left_inj' hu] at h
    have hm : (F32.bitsMag (F32.bits a) : ℚ) = F32.bitsMag (F32.bits b) := by
      simpa [abs_mul] using congrArg abs h
    have hs : F32.sign a = F32.sign b := by
      rw [← hm] at h
      exact F32.signFactor_injective (mul_right_cancel₀ hpos.ne' h)
    exact .inl (F32.eq_of_sign_of_bits hs (F32.bitsMag_strictMono.injective (by exact_mod_cast hm)))
  · rintro (rfl | ⟨ha, hb⟩)
    · rfl
    · rw [(F32.value_eq_zero_iff a).2 ha, (F32.value_eq_zero_iff b).2 hb]

/-- The value is the one the format's own formula gives (00_scope R15). -/
theorem F32.value_eq_formatValue (w : Word) : F32.value w = Spec.formatValue w := by
  have hu : (F32.unit : ℚ) = 2 ^ 149 := by rw [F32.unit]; push_cast; rfl
  rw [F32.value, hu, F32.signedMag, F32.mag, Spec.formatValue, F32.expo_eq_expoBits, F32.frac_eq_fracBits, F32.sign]
  generalize Spec.expoBits w = e, Spec.fracBits w = f, w.getLsbD 31 = neg
  have hsign : ∀ m : Nat, (((if neg then -(m : Int) else (m : Int)) : Int) : ℚ) = (if neg then -1 else 1) * (m : ℚ) :=
    fun m => by cases neg <;> simp
  rw [hsign, mul_div_assoc]
  congr 1
  by_cases he : e = 0
  · rw [if_pos he, if_pos he]
  · rw [if_neg he, if_neg he]; push_cast; rfl

end Sys2Proof.Machine
end

section
/-! SUPPORT. Rounding (00_scope R15): `F32.roundMag` brackets the exact magnitude between two neighbouring data and
takes the nearer, the even one in a tie; signed, this is `Spec.nearest`. -/

namespace Sys2Proof.Machine

/-! ### The rounding as a choice between two neighbours -/

/-- The exponent of the last fraction bit's weight, in units of `2^-149`. -/
def F32.roundShift (num den : Nat) : Nat := Nat.log2 (num * F32.unit / den) - 23

/-- The weight of the last fraction bit, times the denominator. -/
def F32.roundWeight (num den : Nat) : Nat := den * 2 ^ F32.roundShift num den

/-- Bits 30:0 of the greatest datum not above `num / den`. -/
def F32.roundDown (num den : Nat) : Nat :=
  F32.roundShift num den * 2 ^ 23 + num * F32.unit / F32.roundWeight num den

/-- Bits 30:0 of the nearest datum, with further exponents in place of the overflow to infinity. -/
def F32.roundBits (num den : Nat) : Nat :=
  if F32.roundWeight num den < 2 * (num * F32.unit % F32.roundWeight num den) ∨
      (2 * (num * F32.unit % F32.roundWeight num den) = F32.roundWeight num den ∧ F32.roundDown num den % 2 = 1) then
    F32.roundDown num den + 1
  else F32.roundDown num den

theorem F32.roundMag_eq_min (num den : Nat) : F32.roundMag num den = min (F32.roundBits num den) 0x7F800000 := by
  have hparity : F32.roundDown num den % 2 = num * F32.unit / F32.roundWeight num den % 2 := by
    unfold F32.roundDown; omega
  unfold F32.roundBits
  rw [hparity, F32.roundDown, Nat.add_assoc, ← add_ite]
  rfl

/-- The mantissa has at most 24 bits, and all of them unless the exponent is the least. -/
theorem F32.roundMantissa_range (num den : Nat) :
    num * F32.unit / F32.roundWeight num den < 2 ^ 24 ∧
    (F32.roundShift num den = 0 ∨ 2 ^ 23 ≤ num * F32.unit / F32.roundWeight num den) := by
  rw [F32.roundWeight, ← Nat.div_div_eq_div_mul, F32.roundShift]
  generalize num * F32.unit / den = n
  have hlt : n < 2 ^ (n.log2 + 1) := Nat.lt_log2_self
  rcases Nat.le_total n.log2 23 with hle | hge
  · rw [Nat.sub_eq_zero_of_le hle, pow_zero, Nat.div_one]
    exact ⟨hlt.trans_le (Nat.pow_le_pow_right (by decide) (by omega)), .inl rfl⟩
  · have hn : n ≠ 0 := by rintro rfl; simp at hge
    have hpos : 0 < 2 ^ (n.log2 - 23) := Nat.two_pow_pos _
    refine ⟨(Nat.div_lt_iff_lt_mul hpos).2 ?_, .inr ((Nat.le_div_iff_mul_le hpos).2 ?_)⟩
    · rwa [← pow_add, show 24 + (n.log2 - 23) = n.log2 + 1 by omega]
    · rw [← pow_add, show 23 + (n.log2 - 23) = n.log2 by omega]
      exact Nat.log2_self_le hn

/-- The exact magnitude in units of `2^-149`. -/
def F32.exactMag (num den : Nat) : ℚ := (num * F32.unit : Nat) / (den : ℚ)

/-- The exact magnitude lies from the datum below it up to the next one, at the distances that the remainder gives. -/
theorem F32.roundDown_bracket (num : Nat) {den : Nat} (hd : 0 < den) :
    F32.exactMag num den - F32.bitsMag (F32.roundDown num den) =
      (num * F32.unit % F32.roundWeight num den : Nat) / (den : ℚ) ∧
    F32.bitsMag (F32.roundDown num den + 1) - F32.exactMag num den =
      ((F32.roundWeight num den : ℚ) - (num * F32.unit % F32.roundWeight num den : Nat)) / (den : ℚ) := by
  obtain ⟨hlt, hn⟩ := F32.roundMantissa_range num den
  have hlo := F32.bitsMag_mantissa hlt.le hn
  have hhi := F32.bitsMag_mantissa hlt (hn.imp_right Nat.le_succ_of_le)
  have hdm : ((F32.roundWeight num den * (num * F32.unit / F32.roundWeight num den) +
      num * F32.unit % F32.roundWeight num den : Nat) : ℚ) = (num * F32.unit : Nat) :=
    congrArg Nat.cast (Nat.div_add_mod _ _)
  have hw : (F32.roundWeight num den : ℚ) = den * 2 ^ F32.roundShift num den := by
    rw [F32.roundWeight]; push_cast; rfl
  have hden : (den : ℚ) ≠ 0 := by exact_mod_cast hd.ne'
  unfold F32.exactMag F32.roundDown
  rw [Nat.add_assoc, hlo, hhi, ← hdm]
  push_cast
  rw [hw]
  constructor
  · field_simp; ring
  · field_simp; ring

/-- The rounding takes the nearer neighbour, and in a tie the even one. -/
theorem F32.roundBits_cases (num : Nat) {den : Nat} (hd : 0 < den) :
    ∃ lo hi below above, lo = F32.roundDown num den ∧ hi = lo + 1 ∧
      below = F32.exactMag num den - F32.bitsMag lo ∧ above = F32.bitsMag hi - F32.exactMag num den ∧
      0 ≤ below ∧ 0 < above ∧
      (F32.roundBits num den = lo ∧ below ≤ above ∧ (below = above → lo % 2 = 0) ∨
       F32.roundBits num den = hi ∧ above ≤ below ∧ (below = above → hi % 2 = 0)) := by
  have hden : (0 : ℚ) < den := by exact_mod_cast hd
  have hr : num * F32.unit % F32.roundWeight num den < F32.roundWeight num den :=
    Nat.mod_lt _ (Nat.mul_pos hd (Nat.two_pow_pos _))
  obtain ⟨hbelow, habove⟩ := F32.roundDown_bracket num hd
  refine ⟨_, _, _, _, rfl, rfl, rfl, rfl, ?_⟩
  rw [hbelow, habove, F32.roundBits]
  generalize num * F32.unit % F32.roundWeight num den = r at hr ⊢
  generalize F32.roundWeight num den = weight at hr ⊢
  have hr' : (r : ℚ) < weight := by exact_mod_cast hr
  have hle : (r : ℚ) ≤ weight - r ↔ 2 * r ≤ weight := by
    rw [le_sub_iff_add_le, ← two_mul]; exact_mod_cast Iff.rfl
  have hge : weight - (r : ℚ) ≤ r ↔ weight ≤ 2 * r := by
    rw [sub_le_iff_le_add, ← two_mul]; exact_mod_cast Iff.rfl
  have heq : (r : ℚ) = weight - r ↔ 2 * r = weight := by
    rw [eq_sub_iff_add_eq, ← two_mul]; exact_mod_cast Iff.rfl
  rw [div_le_div_iff_of_pos_right hden, div_le_div_iff_of_pos_right hden, div_left_inj' hden.ne', hle, hge, heq]
  refine ⟨by positivity, div_pos (sub_pos.2 hr') hden, ?_⟩
  split
  · exact .inr ⟨rfl, by omega, by omega⟩
  · exact .inl ⟨rfl, by omega, by omega⟩

/-- No datum is nearer than the rounded one, and one as near means that the rounded one is even. -/
theorem F32.roundBits_nearest (num : Nat) {den : Nat} (hd : 0 < den) (b : Nat) :
    |F32.exactMag num den - F32.bitsMag (F32.roundBits num den)| ≤ |F32.exactMag num den - F32.bitsMag b| ∧
    (|F32.exactMag num den - F32.bitsMag (F32.roundBits num den)| = |F32.exactMag num den - F32.bitsMag b| →
      b ≠ F32.roundBits num den → F32.roundBits num den % 2 = 0) := by
  obtain ⟨lo, hi, below, above, -, hhi, hbelow, habove, hb0, ha0, hcase⟩ := F32.roundBits_cases num hd
  generalize F32.exactMag num den = x at *
  have hinj : ∀ c : Nat, (F32.bitsMag b : ℚ) = F32.bitsMag c → b = c := fun c h =>
    F32.bitsMag_strictMono.injective (by exact_mod_cast h)
  -- the datum `b` is below the lower neighbour or above the upper one
  have hb : (F32.bitsMag b : ℚ) ≤ F32.bitsMag lo ∧ |x - F32.bitsMag b| = x - F32.bitsMag b ∨
      (F32.bitsMag hi : ℚ) ≤ F32.bitsMag b ∧ |x - F32.bitsMag b| = F32.bitsMag b - x := by
    rcases Nat.lt_or_ge b hi with h | h
    · have hle : (F32.bitsMag b : ℚ) ≤ F32.bitsMag lo := by
        exact_mod_cast F32.bitsMag_strictMono.monotone (show b ≤ lo by omega)
      exact .inl ⟨hle, abs_of_nonneg (by linarith)⟩
    · have hle : (F32.bitsMag hi : ℚ) ≤ F32.bitsMag b := by
        exact_mod_cast F32.bitsMag_strictMono.monotone h
      exact .inr ⟨hle, by rw [abs_of_nonpos (by linarith), neg_sub]⟩
  rcases hcase with ⟨hc, hnear, htie⟩ | ⟨hc, hnear, htie⟩
  · rw [hc, show |x - F32.bitsMag lo| = below by rw [← hbelow, abs_of_nonneg hb0]]
    rcases hb with ⟨hle, habs⟩ | ⟨hle, habs⟩
    · exact ⟨by linarith, fun h hne => absurd (hinj lo (by linarith)) hne⟩
    · exact ⟨by linarith, fun h _ => htie (by linarith)⟩
  · rw [hc, show |x - F32.bitsMag hi| = above by rw [abs_sub_comm, ← habove, abs_of_nonneg ha0.le]]
    rcases hb with ⟨hle, habs⟩ | ⟨hle, habs⟩
    · exact ⟨by linarith, fun h _ => htie (by linarith)⟩
    · exact ⟨by linarith, fun h hne => absurd (hinj hi (by linarith)) hne⟩

/-- The overflow bound of R15: half a last bit above the largest finite datum. -/
theorem F32.roundBits_lt_iff (num : Nat) {den : Nat} (hd : 0 < den) :
    F32.roundBits num den < 0x7F800000 ↔ F32.exactMag num den < (2 ^ 25 - 1) * 2 ^ 252 := by
  have hmax : (F32.bitsMag 0x7F7FFFFF : ℚ) = (2 ^ 25 - 2) * 2 ^ 252 := by norm_num [F32.bitsMag]
  have hinf : (F32.bitsMag 0x7F800000 : ℚ) = 2 ^ 25 * 2 ^ 252 := by norm_num [F32.bitsMag]
  have hmono : ∀ {a b : Nat}, a ≤ b → (F32.bitsMag a : ℚ) ≤ F32.bitsMag b := fun h => by
    exact_mod_cast F32.bitsMag_strictMono.monotone h
  obtain ⟨hleInf, htie⟩ := F32.roundBits_nearest num hd 0x7F800000
  obtain ⟨hleMax, -⟩ := F32.roundBits_nearest num hd 0x7F7FFFFF
  rw [hinf] at hleInf htie
  rw [hmax] at hleMax
  have hg : (0 : ℚ) < 2 ^ 252 := by positivity
  generalize F32.exactMag num den = x at *
  generalize (2 : ℚ) ^ 252 = g at *
  generalize F32.roundBits num den = c at *
  constructor
  · -- at the bound the infinity is as near as the largest finite datum, which is odd
    intro hc
    by_contra hx
    have hcm := hmono (show c ≤ 0x7F7FFFFF by omega)
    rw [hmax] at hcm
    rw [abs_of_nonneg (a := x - F32.bitsMag c) (by linarith)] at hleInf htie
    rcases le_total x (2 ^ 25 * g) with h | h
    · rw [abs_of_nonpos (by linarith)] at hleInf htie
      have hodd : F32.bitsMag c = F32.bitsMag 0x7F7FFFFF := by
        have : (F32.bitsMag c : ℚ) = F32.bitsMag 0x7F7FFFFF := by rw [hmax]; linarith
        exact_mod_cast this
      have heven := htie (by linarith) (by omega)
      rw [F32.bitsMag_strictMono.injective hodd] at heven
      omega
    · rw [abs_of_nonneg (by linarith)] at hleInf
      linarith
  · -- below the bound the largest finite datum is nearer than the infinity
    intro hx
    by_contra hc
    have hcm := hmono (Nat.le_of_not_lt hc)
    rw [hinf] at hcm
    rw [abs_of_nonpos (a := x - F32.bitsMag c) (by linarith)] at hleMax
    rcases le_total x ((2 ^ 25 - 2) * g) with h | h
    · rw [abs_of_nonpos (by linarith)] at hleMax
      linarith
    · rw [abs_of_nonneg (by linarith)] at hleMax
      linarith

/-! ### Signed rounding -/

/-- The distance of a signed magnitude from a datum, in units. -/
theorem F32.abs_sub_value (neg : Bool) (x : ℚ) (v : Word) :
    |F32.signFactor neg * (x / F32.unit) - F32.value v| =
      |F32.signFactor neg * x - F32.signFactor (F32.sign v) * F32.bitsMag (F32.bits v)| / F32.unit := by
  rw [F32.value_eq, ← mul_div_assoc, ← sub_div, abs_div, abs_of_pos F32.unit_cast_pos]

/-- Two magnitudes with the same sign are as far apart as without it, and with any signs no nearer. -/
theorem F32.abs_sub_le_abs_signed (m n : Bool) {x y : ℚ} (hx : 0 ≤ x) (hy : 0 ≤ y) :
    |F32.signFactor m * x - F32.signFactor m * y| = |x - y| ∧
    |x - y| ≤ |F32.signFactor m * x - F32.signFactor n * y| := by
  constructor
  · rw [← mul_sub, abs_mul, F32.abs_signFactor, one_mul]
  · have h := abs_abs_sub_abs_le (F32.signFactor m * x) (F32.signFactor n * y)
    rwa [abs_mul, abs_mul, F32.abs_signFactor, F32.abs_signFactor, one_mul, one_mul, abs_of_nonneg hx,
      abs_of_nonneg hy] at h

/-- The rounded magnitude of 0 is 0. -/
theorem F32.roundMag_zero (den : Nat) : F32.roundMag 0 den = 0 := by
  simp [F32.roundMag]

/-- The exact quotient in units. -/
theorem F32.div_eq_exactMag_div_unit (num den : Nat) : (num : ℚ) / den = F32.exactMag num den / F32.unit := by
  have := F32.unit_cast_pos.ne'
  rw [F32.exactMag]; push_cast; field_simp

theorem F32.exactMag_nonneg (num den : Nat) : 0 ≤ F32.exactMag num den := by unfold F32.exactMag; positivity

/-- The quotient rounds to a finite datum where it is below the bound of R15. -/
theorem F32.abs_lt_bound_iff (neg : Bool) (num : Nat) {den : Nat} (hd : 0 < den) :
    |F32.signFactor neg * ((num : ℚ) / den)| < 2 ^ 128 - 2 ^ 103 ↔ F32.roundBits num den < 0x7F800000 := by
  rw [F32.roundBits_lt_iff num hd, abs_mul, F32.abs_signFactor, one_mul, F32.div_eq_exactMag_div_unit,
    abs_of_nonneg (div_nonneg (F32.exactMag_nonneg _ _) F32.unit_cast_pos.le), div_lt_iff₀ F32.unit_cast_pos,
    show (2 ^ 128 - 2 ^ 103 : ℚ) * F32.unit = (2 ^ 25 - 1) * 2 ^ 252 by norm_num [F32.unit]]

/-- A datum of another value that is as near as the rounded one has another magnitude: the datum of the other sign is
farther, but for the two zeros. -/
theorem F32.bits_ne_of_equidistant (neg : Bool) (num : Nat) {den : Nat} (hd : 0 < den) {v : Word}
    (hbits : F32.bits (F32.pack neg (F32.roundBits num den)) = F32.roundBits num den)
    (heq : |F32.exactMag num den - F32.bitsMag (F32.roundBits num den)| =
      |F32.signFactor neg * F32.exactMag num den - F32.signFactor (F32.sign v) * F32.bitsMag (F32.bits v)|)
    (hne : F32.value v ≠ F32.value (F32.pack neg (F32.roundBits num den))) :
    F32.bits v ≠ F32.roundBits num den := by
  intro hv
  have hopp : F32.sign v = !neg :=
    Bool.eq_not.2 fun hs => hne (by rw [← hs, ← hv, F32.pack_sign_bits])
  have hx := F32.exactMag_nonneg num den
  have hm : (0 : ℚ) ≤ F32.bitsMag (F32.roundBits num den) := Nat.cast_nonneg _
  -- the two distances are the sum of the magnitudes, and no more than the distance of 0
  have hsum : |F32.exactMag num den - F32.bitsMag (F32.roundBits num den)| =
      F32.exactMag num den + F32.bitsMag (F32.roundBits num den) := by
    rw [heq, hopp, hv, F32.signFactor_not, neg_mul, sub_neg_eq_add, ← mul_add, abs_mul, F32.abs_signFactor, one_mul,
      abs_of_nonneg (add_nonneg hx hm)]
  have hnear := (F32.roundBits_nearest num hd 0).1
  rw [hsum, show F32.bitsMag 0 = 0 from rfl, Nat.cast_zero, sub_zero, abs_of_nonneg hx] at hnear
  have hzero : (F32.bitsMag (F32.roundBits num den) : ℚ) = 0 := le_antisymm (by linarith) hm
  exact hne (by rw [F32.value_eq, F32.value_eq, hbits, hv, hzero, mul_zero, mul_zero])

/-- The datum packed from a sign and a rounded magnitude is the nearest to the signed quotient (00_scope R15). -/
theorem F32.nearest_pack_roundMag (neg : Bool) (num : Nat) {den : Nat} (hd : 0 < den) :
    Spec.nearest (F32.signFactor neg * ((num : ℚ) / den)) (F32.pack neg (F32.roundMag num den)) := by
  have hbound := F32.abs_lt_bound_iff neg num hd
  have hx := F32.exactMag_nonneg num den
  unfold Spec.nearest
  by_cases hfit : F32.roundBits num den < 0x7F800000
  · rw [if_pos (hbound.2 hfit), F32.roundMag_eq_min, min_eq_left hfit.le, F32.div_eq_exactMag_div_unit]
    have hbits : F32.bits (F32.pack neg (F32.roundBits num den)) = F32.roundBits num den :=
      F32.bits_pack neg (by omega)
    refine ⟨(F32.isFinite_iff _).2 (by rwa [hbits]), fun v _ => ?_⟩
    obtain ⟨hle, htie⟩ := F32.roundBits_nearest num hd (F32.bits v)
    have hown := (F32.abs_sub_le_abs_signed neg neg hx (Nat.cast_nonneg (F32.bitsMag (F32.roundBits num den)))).1
    have hfar := (F32.abs_sub_le_abs_signed neg (F32.sign v) hx (Nat.cast_nonneg (F32.bitsMag (F32.bits v)))).2
    rw [F32.abs_sub_value, F32.abs_sub_value, F32.sign_pack, hbits, hown,
      div_le_div_iff_of_pos_right F32.unit_cast_pos, div_left_inj' F32.unit_cast_pos.ne']
    refine ⟨hle.trans hfar, fun heq hne => ?_⟩
    have heven := htie (le_antisymm hle (heq ▸ hfar)) (F32.bits_ne_of_equidistant neg num hd hbits heq hne)
    rw [F32.frac_eq_bits_mod, hbits]
    omega
  · rw [if_neg (hbound.not.2 hfit), F32.roundMag_eq_min, min_eq_right (Nat.le_of_not_lt hfit), F32.isInf_iff,
      F32.bits_pack neg (by decide), F32.sign_pack]
    rw [F32.roundBits_lt_iff num hd, not_lt] at hfit
    have hpos : (0 : ℚ) < (num : ℚ) / den := by
      rw [F32.div_eq_exactMag_div_unit]
      exact div_pos (lt_of_lt_of_le (by norm_num) hfit) F32.unit_cast_pos
    refine ⟨rfl, ?_⟩
    cases neg
    · simpa [F32.signFactor] using hpos.le
    · simpa [F32.signFactor] using hpos

end Sys2Proof.Machine
end

section
/-! PROOFS. O53: the binary32 format and operations (00_scope R15), class by class of the operands. -/

namespace Sys2Proof.Machine

/-! ### The operations by the classes of their operands -/

/-- The signed integer of units as its sign and magnitude. -/
theorem F32.intCast_eq_signFactor (n : Int) : (n : ℚ) = F32.signFactor (decide (n < 0)) * (n.natAbs : ℚ) := by
  rcases lt_or_ge n 0 with h | h
  · have : (n : ℚ) < 0 := by exact_mod_cast h
    simp [F32.signFactor, h, Nat.cast_natAbs, abs_of_neg this]
  · have : (0 : ℚ) ≤ n := by exact_mod_cast h
    simp [F32.signFactor, not_lt.2 h, Nat.cast_natAbs, abs_of_nonneg this]

/-- The value by its sign and its magnitude in units. -/
theorem F32.value_eq_mag (w : Word) :
    F32.value w = F32.signFactor (F32.sign w) * ((F32.mag w : ℚ) / F32.unit) := by
  rw [F32.value_eq, F32.mag_eq_bitsMag, mul_div_assoc]

theorem F32.nearest_zero (neg : Bool) : Spec.nearest 0 (Spec.zero neg) := by
  have h := F32.nearest_pack_roundMag neg 0 Nat.one_pos
  rwa [F32.roundMag_zero, Nat.cast_zero, zero_div, mul_zero, ← F32.zero_eq_pack] at h

/-- The sum of finite data: the two cases of R15. -/
theorem F32.add_finite (q : Nat) {a b : Word} (ha : F32.isFinite a = true) (hb : F32.isFinite b = true) :
    (F32.value a + F32.value b = 0 → F32.add q a b = Spec.zero (F32.sign a && F32.sign b)) ∧
    Spec.nearest (F32.value a + F32.value b) (F32.add q a b) := by
  have hsum : F32.value a + F32.value b = ((F32.signedMag a + F32.signedMag b : Int) : ℚ) / F32.unit := by
    rw [F32.value, F32.value, ← add_div]; push_cast; rfl
  have hz : F32.value a + F32.value b = 0 ↔ F32.signedMag a + F32.signedMag b = 0 := by
    rw [hsum, div_eq_zero_iff, or_iff_left F32.unit_cast_pos.ne', Int.cast_eq_zero]
  have hadd : F32.addNum a b =
      if F32.signedMag a + F32.signedMag b = 0 then some (F32.pack (F32.sign a && F32.sign b) 0)
      else some (F32.pack (decide (F32.signedMag a + F32.signedMag b < 0))
        (F32.roundMag (F32.signedMag a + F32.signedMag b).natAbs F32.unit)) := by
    simp [F32.addNum, F32.isNaN_of_isFinite, F32.isInf_of_isFinite, ha, hb]
  by_cases h : F32.signedMag a + F32.signedMag b = 0
  · have hval : F32.add q a b = Spec.zero (F32.sign a && F32.sign b) := by
      rw [F32.add, hadd, if_pos h, Option.getD_some, F32.zero_eq_pack]
    refine ⟨fun _ => hval, ?_⟩
    rw [hval, hz.2 h]
    exact F32.nearest_zero _
  · refine ⟨fun h0 => absurd (hz.1 h0) h, ?_⟩
    rw [F32.add, hadd, if_neg h, Option.getD_some, hsum, F32.intCast_eq_signFactor, mul_div_assoc]
    exact F32.nearest_pack_roundMag _ _ F32.unit_pos

/-- The difference of finite data. -/
theorem F32.sub_finite (q : Nat) {a b : Word} (ha : F32.isFinite a = true) (hb : F32.isFinite b = true) :
    (F32.value a - F32.value b = 0 → F32.sub q a b = Spec.zero (F32.sign a && !F32.sign b)) ∧
    Spec.nearest (F32.value a - F32.value b) (F32.sub q a b) := by
  have h := F32.add_finite q ha ((F32.isFinite_neg b).trans hb)
  rwa [F32.value_neg, ← sub_eq_add_neg, F32.sign_neg] at h

/-- The product of finite data, with the exclusive-or of the signs. -/
theorem F32.mul_finite (q : Nat) {a b : Word} (ha : F32.isFinite a = true) (hb : F32.isFinite b = true) :
    F32.sign (F32.mul q a b) = (F32.sign a != F32.sign b) ∧
    Spec.nearest (F32.value a * F32.value b) (F32.mul q a b) := by
  have hmul : F32.mul q a b = F32.pack (F32.sign a != F32.sign b)
      (F32.roundMag (F32.mag a * F32.mag b) (F32.unit * F32.unit)) := by
    simp [F32.mul, F32.mulNum, F32.isNaN_of_isFinite, F32.isInf_of_isFinite, ha, hb]
  have hprod : F32.value a * F32.value b = F32.signFactor (F32.sign a != F32.sign b) *
      ((F32.mag a * F32.mag b : Nat) / (F32.unit * F32.unit : Nat)) := by
    rw [F32.value_eq_mag, F32.value_eq_mag, F32.signFactor_bne]; push_cast; ring
  rw [hmul, hprod]
  exact ⟨F32.sign_pack _ _, F32.nearest_pack_roundMag _ _ (Nat.mul_pos F32.unit_pos F32.unit_pos)⟩

/-- The quotient of finite data by a value other than 0. -/
theorem F32.div_finite (q : Nat) {a b : Word} (ha : F32.isFinite a = true) (hb : F32.isFinite b = true)
    (h0 : F32.value b ≠ 0) :
    F32.sign (F32.div q a b) = (F32.sign a != F32.sign b) ∧
    Spec.nearest (F32.value a / F32.value b) (F32.div q a b) := by
  have hm : F32.mag b ≠ 0 := (F32.value_eq_zero_iff b).not.1 h0
  have hdiv : F32.div q a b = F32.pack (F32.sign a != F32.sign b) (F32.roundMag (F32.mag a) (F32.mag b)) := by
    simp [F32.div, F32.divNum, F32.isNaN_of_isFinite, F32.isInf_of_isFinite, ha, hb, hm]
  have hinv : (F32.signFactor (F32.sign b))⁻¹ = F32.signFactor (F32.sign b) := by
    cases F32.sign b <;> norm_num [F32.signFactor]
  have hquot : F32.value a / F32.value b =
      F32.signFactor (F32.sign a != F32.sign b) * ((F32.mag a : ℚ) / F32.mag b) := by
    rw [F32.value_eq_mag, F32.value_eq_mag, F32.signFactor_bne, mul_div_mul_comm,
      div_div_div_cancel_right₀ F32.unit_cast_pos.ne', div_eq_mul_inv (F32.signFactor _), hinv]
  rw [hdiv, hquot]
  exact ⟨F32.sign_pack _ _, F32.nearest_pack_roundMag _ _ (Nat.pos_of_ne_zero hm)⟩

/-- The quotient of finite data by a zero: an infinity, and of two zeros a NaN. -/
theorem F32.div_by_zero (q : Nat) {a b : Word} (ha : F32.isFinite a = true) (hb : F32.isFinite b = true)
    (h0 : F32.value b = 0) :
    (F32.value a ≠ 0 → F32.div q a b = Spec.infinity (F32.sign a != F32.sign b)) ∧
    (F32.value a = 0 → F32.isNaN (F32.div q a b) = true) := by
  have hdiv : F32.divNum a b =
      if F32.mag a = 0 then none else some (F32.pack (F32.sign a != F32.sign b) 0x7F800000) := by
    simp [F32.divNum, F32.isNaN_of_isFinite, F32.isInf_of_isFinite, ha, hb, (F32.value_eq_zero_iff b).1 h0]
  rw [ne_eq, F32.value_eq_zero_iff, F32.div, hdiv]
  constructor
  · intro h
    rw [if_neg h, Option.getD_some, F32.infinity_eq_pack]
  · intro h
    rw [if_pos h, Option.getD_none, F32.isNaN_nan]

theorem F32.div_of_nan {a b : Word} (d : Nat) (h : F32.isNaN a = true ∨ F32.isNaN b = true) :
    F32.div d a b = F32.nan d := by
  have : F32.divNum a b = none := if_pos (by simpa using h)
  simp [F32.div, this]

/-- A NaN operand gives a NaN and equals nothing. -/
theorem F32.ops_of_nan (q : Nat) {a b : Word} (h : F32.isNaN a = true ∨ F32.isNaN b = true) :
    F32.isNaN (F32.add q a b) = true ∧ F32.isNaN (F32.sub q a b) = true ∧ F32.isNaN (F32.mul q a b) = true ∧
    F32.isNaN (F32.div q a b) = true ∧ F32.eq a b = false := by
  have h' : F32.isNaN a = true ∨ F32.isNaN (F32.neg b) = true := by rwa [F32.isNaN_neg]
  rw [F32.sub, F32.add_of_nan q h, F32.add_of_nan q h', F32.mul_of_nan q h, F32.div_of_nan q h]
  refine ⟨F32.isNaN_nan q, F32.isNaN_nan q, F32.isNaN_nan q, F32.isNaN_nan q, ?_⟩
  rcases h with h | h <;> simp [F32.eq, h]

section Infinite
variable {a b : Word} (q : Nat)

/-- An infinity and a finite datum add to the infinity, in either order. -/
theorem F32.add_isInf_isFinite (ha : F32.isInf a = true) (hb : F32.isFinite b = true) :
    F32.add q a b = a ∧ F32.add q b a = a := by
  constructor <;>
    simp [F32.add, F32.addNum, F32.isNaN_of_isInf, F32.isNaN_of_isFinite, F32.isInf_of_isFinite, ha, hb]

/-- Subtraction takes a finite datum from an infinity, or gives the infinity of the other sign. -/
theorem F32.sub_isInf_isFinite (ha : F32.isInf a = true) (hb : F32.isFinite b = true) :
    F32.sub q a b = a ∧ F32.sub q b a = Spec.infinity (!F32.sign a) := by
  have hneg : F32.isInf (F32.neg a) = true := (F32.isInf_neg a).trans ha
  refine ⟨(F32.add_isInf_isFinite q ha ((F32.isFinite_neg b).trans hb)).1, ?_⟩
  rw [F32.sub, (F32.add_isInf_isFinite q hneg hb).2, ← F32.sign_neg]
  exact F32.eq_infinity_of_isInf hneg

/-- An infinity times a non-zero finite datum is an infinity, times a zero a NaN, in either order. -/
theorem F32.mul_isInf_isFinite (ha : F32.isInf a = true) (hb : F32.isFinite b = true) :
    (F32.value b ≠ 0 → F32.mul q a b = Spec.infinity (F32.sign a != F32.sign b) ∧
      F32.mul q b a = Spec.infinity (F32.sign a != F32.sign b)) ∧
    (F32.value b = 0 → F32.isNaN (F32.mul q a b) = true ∧ F32.isNaN (F32.mul q b a) = true) := by
  have hnum : ∀ s, (if F32.mag b = 0 then none else some (F32.pack s 0x7F800000)) =
      if F32.value b = 0 then none else some (Spec.infinity s) := fun s => by
    simp only [F32.value_eq_zero_iff, F32.infinity_eq_pack]
  have hab : F32.mulNum a b = if F32.value b = 0 then none else some (Spec.infinity (F32.sign a != F32.sign b)) := by
    rw [← hnum]
    simp [F32.mulNum, F32.isNaN_of_isInf, F32.isFinite_of_isInf, F32.isNaN_of_isFinite, ha, hb]
  have hba : F32.mulNum b a = if F32.value b = 0 then none else some (Spec.infinity (F32.sign a != F32.sign b)) := by
    rw [← hnum, bne_comm]
    simp [F32.mulNum, F32.isNaN_of_isInf, F32.isFinite_of_isInf, F32.isNaN_of_isFinite, ha, hb]
  rw [F32.mul, F32.mul, hab, hba]
  constructor
  · intro h
    simp only [if_neg h, Option.getD_some, and_self]
  · intro h
    simp only [if_pos h, Option.getD_none, F32.isNaN_nan, and_self]

/-- An infinity over a finite datum is an infinity, a finite datum over an infinity a zero. -/
theorem F32.div_isInf_isFinite (ha : F32.isInf a = true) (hb : F32.isFinite b = true) :
    F32.div q a b = Spec.infinity (F32.sign a != F32.sign b) ∧
    F32.div q b a = Spec.zero (F32.sign a != F32.sign b) := by
  rw [F32.infinity_eq_pack, F32.zero_eq_pack, bne_comm (a := F32.sign a)]
  constructor
  · simp [F32.div, F32.divNum, F32.isNaN_of_isInf, F32.isNaN_of_isFinite, F32.isInf_of_isFinite, ha, hb, Bool.xor_comm]
  · simp [F32.div, F32.divNum, F32.isNaN_of_isInf, F32.isNaN_of_isFinite, F32.isInf_of_isFinite, ha, hb]

/-- Two infinities add to the infinity of their common sign, of different signs to a NaN. -/
theorem F32.add_isInf_isInf (ha : F32.isInf a = true) (hb : F32.isInf b = true) :
    (F32.sign a = F32.sign b → F32.add q a b = a) ∧
    (F32.sign a ≠ F32.sign b → F32.isNaN (F32.add q a b) = true) := by
  constructor <;> intro h <;> simp [F32.add, F32.addNum, F32.isNaN_of_isInf, ha, hb, h]

/-- Two infinities of different signs subtract to the first, of a common sign to a NaN. -/
theorem F32.sub_isInf_isInf (ha : F32.isInf a = true) (hb : F32.isInf b = true) :
    (F32.sign a = F32.sign b → F32.isNaN (F32.sub q a b) = true) ∧
    (F32.sign a ≠ F32.sign b → F32.sub q a b = a) := by
  obtain ⟨hsame, hdiff⟩ := F32.add_isInf_isInf q ha ((F32.isInf_neg b).trans hb)
  rw [F32.sign_neg] at hsame hdiff
  exact ⟨fun h => hdiff (by simp [h]), fun h => hsame (Bool.eq_not.2 h)⟩

/-- Two infinities multiply to an infinity and divide to a NaN. -/
theorem F32.mul_div_isInf_isInf (ha : F32.isInf a = true) (hb : F32.isInf b = true) :
    F32.mul q a b = Spec.infinity (F32.sign a != F32.sign b) ∧ F32.isNaN (F32.div q a b) = true := by
  rw [F32.infinity_eq_pack]
  constructor
  · simp [F32.mul, F32.mulNum, F32.isNaN_of_isInf, F32.isFinite_of_isInf, ha, hb]
  · simp [F32.div, F32.divNum, F32.isNaN_of_isInf, ha, hb]

end Infinite

/-- Data that are no NaN compare equal where they are the same or have the same value. -/
theorem F32.eq_true_iff {a b : Word} (ha : F32.isNaN a = false) (hb : F32.isNaN b = false) :
    F32.eq a b = true ↔
      a = b ∨ (F32.isFinite a = true ∧ F32.isFinite b = true ∧ F32.value a = F32.value b) := by
  have heq : F32.eq a b = true ↔
      a = b ∨ (F32.isFinite a = true ∧ F32.isFinite b = true ∧ F32.mag a = 0 ∧ F32.mag b = 0) := by
    simp [F32.eq, ha, hb, and_assoc]
  rw [heq, F32.value_eq_value_iff]
  tauto

/-- The conversion of an integer is the nearest datum. -/
theorem F32.nearest_ofInt (n : Int) : Spec.nearest (n : ℚ) (F32.ofInt n) := by
  have h := F32.nearest_pack_roundMag (decide (n < 0)) n.natAbs Nat.one_pos
  rwa [Nat.cast_one, div_one, ← F32.intCast_eq_signFactor] at h

/-! ### The statement -/

/-- Settles O53: the format by its fields, then the operations by the classes of their operands. -/
theorem arithmeticRoundsToNearestEven : Obligations.ArithmeticRoundsToNearestEven := by
  unfold Obligations.ArithmeticRoundsToNearestEven
  refine ⟨fun w => ?format, fun q a b ha hb => ?finite, fun q a b h => F32.ops_of_nan q h,
    fun q a b ha hb => ?infiniteFinite, fun q a b ha hb => ?infinite, fun a b ha hb => F32.eq_true_iff ha hb,
    fun n => ⟨F32.nearest_ofInt n, F32.sign_pack _ _⟩⟩
  case format =>
    refine ⟨rfl, F32.frac_eq_fracBits w, ?_, ?_, ?_, fun _ => F32.value_eq_formatValue w⟩
    · rw [← F32.expo_eq_expoBits, ← F32.frac_eq_fracBits]; simp [F32.isNaN]
    · rw [← F32.expo_eq_expoBits, ← F32.frac_eq_fracBits]; simp [F32.isInf]
    · rw [← F32.expo_eq_expoBits]; simp [F32.isFinite]
  case finite =>
    obtain ⟨hadd0, hadd⟩ := F32.add_finite q ha hb
    obtain ⟨hsub0, hsub⟩ := F32.sub_finite q ha hb
    obtain ⟨hmulSign, hmul⟩ := F32.mul_finite q ha hb
    exact ⟨hadd, hsub, hmul, fun h => (F32.div_finite q ha hb h).2, hadd0, hsub0, hmulSign,
      fun h => (F32.div_finite q ha hb h).1, fun h => (F32.div_by_zero q ha hb h).1,
      fun h => (F32.div_by_zero q ha hb h).2⟩
  case infiniteFinite =>
    obtain ⟨hadd, hadd'⟩ := F32.add_isInf_isFinite q ha hb
    obtain ⟨hsub, hsub'⟩ := F32.sub_isInf_isFinite q ha hb
    obtain ⟨hmul, hmulNaN⟩ := F32.mul_isInf_isFinite q ha hb
    obtain ⟨hdiv, hdiv'⟩ := F32.div_isInf_isFinite q ha hb
    exact ⟨hadd, hadd', hsub, hsub', hmul, hmulNaN, hdiv, hdiv'⟩
  case infinite =>
    obtain ⟨hadd, haddNaN⟩ := F32.add_isInf_isInf q ha hb
    obtain ⟨hsubNaN, hsub⟩ := F32.sub_isInf_isInf q ha hb
    obtain ⟨hmul, hdivNaN⟩ := F32.mul_div_isInf_isInf q ha hb
    exact ⟨fun h => ⟨hadd h, hsubNaN h⟩, fun h => ⟨haddNaN h, hsub h⟩, hmul, hdivNaN⟩

end Sys2Proof.Machine
end

section
/-! SUPPORT. The RSE unit's part of the invariant (10_state R94(a), (b)): what an initialisation builds and an apply
keeps, and the arithmetic of the reduced ratio behind both. -/

namespace Sys2Proof.Machine

/-! ### Results and quotients -/

/-- A result that fits its register is read back whole (30_encoding R205). -/
theorem resultU32_toNat {n : Nat} (h : n < 2 ^ 32) : (resultU32 n).toNat = n := by
  simpa [resultU32] using h

theorem resultU32_operandU32 (w : Word) : resultU32 (operandU32 w) = w := by
  simp [resultU32, operandU32]

/-- A quotient rounded up is the quotient of a multiple, and one more where a remainder is left. -/
theorem ceilDiv_eq_div_add (a : Nat) {b : Nat} (hb : 0 < b) :
    ceilDiv a b = a / b + if a % b = 0 then 0 else 1 := by
  have ha : a = b * (a / b) + a % b := (Nat.div_add_mod a b).symm
  have hr : a % b < b := Nat.mod_lt a hb
  have hlast : (b - 1) / b = 0 := Nat.div_eq_of_lt (by omega)
  unfold ceilDiv
  split
  · rw [show a + b - 1 = b * (a / b) + (b - 1) by omega, Nat.mul_add_div hb, hlast]
  · rw [show a + b - 1 = b * (a / b) + (b + (a % b - 1)) by omega, Nat.mul_add_div hb, Nat.add_div_left _ hb,
      Nat.div_eq_of_lt (by omega : a % b - 1 < b)]

@[simp] theorem ceilDiv_one (a : Nat) : ceilDiv a 1 = a := by simp [ceilDiv]

theorem ceilDiv_le_self (a : Nat) {b : Nat} (hb : 0 < b) : ceilDiv a b ≤ a :=
  (ceilDiv_le_iff a b a hb).2 (Nat.le_mul_of_pos_right a hb)

/-- Reduced factors of two words are words (40 R251). -/
theorem reduce_lt {up down : Nat} (hup : up < 2 ^ 32) (hdown : down < 2 ^ 32) :
    (reduce up down).1 < 2 ^ 32 ∧ (reduce up down).2 < 2 ^ 32 := by
  have hmax : ∀ n, n < 2 ^ 32 → Nat.max n 1 < 2 ^ 32 := fun n hn => Nat.max_lt.2 ⟨hn, by decide⟩
  exact ⟨(Nat.div_le_self _ _).trans_lt (hmax up hup), (Nat.div_le_self _ _).trans_lt (hmax down hdown)⟩

/-- The sizes of a BlockLengthNegotiation (40 R258): its greatest length is the ceiling of `m·d/u`, its counts are at
most `u`, and a cycle has at least one block. -/
theorem negotiate_sizes (m d : Nat) {u : Nat} (hu : 0 < u) :
    (negotiate m u d).min ≤ (negotiate m u d).max ∧ (negotiate m u d).max = ceilDiv (m * d) u ∧
    (negotiate m u d).nummin ≤ u ∧ (negotiate m u d).nummax ≤ u ∧
    0 < (negotiate m u d).cyc ∧ (negotiate m u d).cyc ≤ u := by
  rw [ceilDiv_eq_div_add _ hu]
  by_cases hr : m * d % u = 0
  · simp only [negotiate, hr, if_true]
    omega
  · have hg : 0 < Nat.gcd (m * d % u) u := Nat.gcd_pos_of_pos_right _ hu
    have hcyc : 0 < u / Nat.gcd (m * d % u) u := Nat.div_pos (Nat.gcd_le_right _ hu) hg
    have hle : u / Nat.gcd (m * d % u) u ≤ u := Nat.div_le_self _ _
    have hmax : m * d % u / Nat.gcd (m * d % u) u ≤ u := (Nat.div_le_self _ _).trans (Nat.mod_lt _ hu).le
    simp only [negotiate, hr, if_false]
    exact ⟨Nat.le_succ _, trivial, (Nat.sub_le _ _).trans hle, hmax, hcyc, hle⟩

/-! ### Initialisation -/

/-- The engine right after `ENGINE_INIT` (40 R261). -/
theorem configureEngine_rse (s : State) (byp : Bool) (u d n klen phl h inmax offmax : Nat) :
    (configureEngine s byp u d n klen phl h inmax offmax).rse =
      { mode := .active, byp := byp, u := resultU32 u, d := resultU32 d, n := resultU32 n, klen := resultU32 klen,
        phl := resultU32 phl, h := resultU32 h, inmax := resultU32 inmax, offmax := resultU32 offmax, carry := 0,
        dph := 0, outcnt := 0, kl := readBlock s .kmem 0 klen, hist := List.replicate h F32.zero, carrybuf := [] } := rfl

/-- An engine torn down or failed holds nothing (10_state R60 to R68). -/
theorem engineGood_zero (p : Params) {m : EngineMode} (hm : m ≠ .active) : engineGood p { Rse.zero with mode := m } :=
  ⟨fun _ => rfl, fun h => absurd h hm, fun h => absurd h hm, fun h => absurd h hm⟩

/-- A bypass engine within its capacities is good (R94(b)). -/
theorem engineGood_configure_bypass (s : State) {n klen : Nat} (hk : klen ≤ s.inst.capKmax.toNat)
    (hin : n ≤ s.inst.capIn.toNat) (hout : n ≤ s.inst.capOut.toNat) :
    engineGood s.inst (configureEngine s true 1 1 n klen 0 0 n 0).rse := by
  have hkl := resultU32_toNat (hk.trans_lt s.inst.capKmax.isLt)
  have hn := resultU32_toNat (hin.trans_lt s.inst.capIn.isLt)
  rw [configureEngine_rse]
  refine ⟨fun h => absurd rfl h, fun _ => ?sizes, fun _ h => (nomatch h),
    fun _ _ => ⟨rfl, rfl, rfl, rfl, rfl, rfl, rfl, rfl⟩⟩
  simp only [readBlock_length, List.length_replicate, hkl, hn]
  exact ⟨trivial, hk, rfl, Nat.zero_le _, rfl, Nat.le_refl _, hin, hout⟩

/-- A filtering engine of a reduced ratio within its capacities is good (R94(a)). -/
theorem engineGood_configure_filter (s : State) {u d n klen : Nat} (hu : 1 ≤ u) (hu' : u < 2 ^ 32) (hd : 1 ≤ d)
    (hd' : d < 2 ^ 32) (hgcd : Nat.gcd u d = 1) (hk : klen ≤ s.inst.capKmax.toNat)
    (hh : ceilDiv klen u * u - 1 ≤ s.inst.capHist.toNat) (hin : ceilDiv (n * d) u ≤ s.inst.capIn.toNat)
    (hout : n + ceilDiv u d ≤ s.inst.capOut.toNat) :
    engineGood s.inst (configureEngine s false u d n klen (ceilDiv klen u) (ceilDiv klen u * u - 1)
      (ceilDiv (n * d) u) (ceilDiv u d)).rse := by
  have hklen := hk.trans_lt s.inst.capKmax.isLt
  have hcap := hout.trans_lt s.inst.capOut.isLt
  have eu := resultU32_toNat hu'
  have ed := resultU32_toNat hd'
  have en : (resultU32 n).toNat = n := resultU32_toNat (by omega)
  have ek := resultU32_toNat hklen
  have ep := resultU32_toNat ((ceilDiv_le_self klen hu).trans_lt hklen)
  have eh := resultU32_toNat (hh.trans_lt s.inst.capHist.isLt)
  have ei := resultU32_toNat (hin.trans_lt s.inst.capIn.isLt)
  have eo : (resultU32 (ceilDiv u d)).toNat = ceilDiv u d := resultU32_toNat (by omega)
  rw [configureEngine_rse]
  refine ⟨fun h => absurd rfl h, fun _ => ?sizes, fun _ _ => ?ratio, fun _ h => (nomatch h)⟩
  case sizes =>
    simp only [readBlock_length, List.length_replicate, ek, eh, ei, en, eo]
    exact ⟨trivial, hk, trivial, hh, rfl, Nat.zero_le _, hin, hout⟩
  case ratio =>
    simp only [eu, ed, en, ek, ep, eh, ei, eo]
    exact ⟨hu, hgcd, trivial, trivial, trivial, trivial, hd⟩

/-- A successful `ENGINE_INIT` of two word factors gives a good ACTIVE engine of the block length asked for, and
otherwise invalidates the negotiation and clears OUT (40 R261). -/
theorem engineInit_ok {up down n klen : Nat} {s t : State} (hup : up < 2 ^ 32) (hdown : down < 2 ^ 32)
    (h : engineInit up down n klen s = .ok t) :
    engineGood s.inst t.rse ∧ t.rse.mode = .active ∧ t.rse.n = resultU32 n ∧
    t = { s with rse := t.rse, rrc := invalidateRrc s.rrc,
                 mem := (writeBlock s .out 0 (List.replicate s.inst.capOut.toNat F32.zero)).mem } := by
  obtain ⟨hu, hd, hgcd⟩ := reduce_spec up down
  obtain ⟨hu', hd'⟩ := reduce_lt hup hdown
  rcases engineInit_cases up down n klen s with ⟨hk, hu1, hd1, _, hin, hout, hc⟩ | ⟨hk, _, hh, hin, hout, hc⟩ | hc
  · rw [hu1, hd1] at hc
    cases h.symm.trans hc
    exact ⟨engineGood_configure_bypass s hk hin hout, rfl, rfl, rfl⟩
  · cases h.symm.trans hc
    exact ⟨engineGood_configure_filter s hu hu' hd hd' hgcd hk hh hin hout, rfl, rfl, rfl⟩
  · cases h.symm.trans hc

/-- A failed `ENGINE_INIT` leaves the state of `fail_init()` (40 R262). -/
theorem engineInit_error {up down n klen : Nat} {s t : State} (h : engineInit up down n klen s = .error t) :
    t = failEngine s := by
  rcases engineInit_cases up down n klen s with ⟨_, _, _, _, _, _, hc⟩ | ⟨_, _, _, _, _, hc⟩ | hc
  · cases h.symm.trans hc
  · cases h.symm.trans hc
  · cases h.symm.trans hc
    rfl

/-! ### Applies -/

/-- The engine after an apply keeps its ratio, sizes and capacities, carries at most OFFMAX samples, and has a phase
below D (40 R256, R257, R270). -/
theorem engineGood_applyEngine {p : Params} {r : Rse} (chunk out : List Word) (hm : r.mode = .active)
    (hb : r.byp = false) (h : engineGood p r) : engineGood p (applyEngine r chunk out) := by
  obtain ⟨-, hactive, hfilter, -⟩ := h
  obtain ⟨hkl, hkmax, hhist, hhmax, -, -, hin, hout⟩ := hactive hm
  obtain ⟨hu, hgcd, hphl, hh, hinmax, hoffmax, hdph⟩ := hfilter hm hb
  have hcarry := (deliver_carry r.n.toNat r.offmax.toNat (r.carrybuf ++ out)).2
  have hphase := (nextPhase_spec r.dph.toNat r.u.toNat chunk.length r.d.toNat (by omega)).2
  refine ⟨fun h => absurd hm h, fun _ => ?sizes, fun _ _ => ?ratio, fun _ h => absurd (hb.symm.trans h) (by decide)⟩
  case sizes =>
    have hlen : (applyEngine r chunk out).carry.toNat = (applyEngine r chunk out).carrybuf.length :=
      resultU32_toNat (hcarry.trans_lt r.offmax.isLt)
    exact ⟨hkl, hkmax, lastN_length _ _ (by rw [List.length_append]; omega), hhmax, hlen.symm, hlen ▸ hcarry, hin, hout⟩
  case ratio =>
    have heq : (applyEngine r chunk out).dph.toNat = nextPhase r.dph.toNat r.u.toNat chunk.length r.d.toNat :=
      resultU32_toNat (hphase.trans r.d.isLt)
    exact ⟨hu, hgcd, hphl, hh, hinmax, hoffmax, heq ▸ hphase⟩

/-- An ACTIVE engine in either mode has a ratio of at least 1 and INMAX the ceiling of `N·D/U`. -/
theorem engineGood_inmax {p : Params} {r : Rse} (hm : r.mode = .active) (h : engineGood p r) :
    0 < r.u.toNat ∧ r.inmax.toNat = ceilDiv (r.n.toNat * r.d.toNat) r.u.toNat := by
  obtain ⟨-, -, hfilter, hbypass⟩ := h
  cases hb : r.byp
  · obtain ⟨hu, -, -, -, hinmax, -, -⟩ := hfilter hm hb
    exact ⟨hu, hinmax⟩
  · obtain ⟨hu, hd, -, -, hinmax, -, -, -⟩ := hbypass hm hb
    simp [hu, hd, hinmax]

end Sys2Proof.Machine
end

section
/-! SUPPORT. The RRC unit's part of the invariant (R94(c), 41 R353): invalidation, the request and the negotiation. -/

namespace Sys2Proof.Machine

/-- An invalid negotiation is good beside any engine: only the clamped factors and the kernel choice stay (41 R356). -/
theorem rrcGood_invalidateRrc {c : Rrc} {r : Rse} (r' : Rse) (h : rrcGood c r) : rrcGood (invalidateRrc c) r' := by
  obtain ⟨-, -, hup, hdown, hsel, hbyp⟩ := h
  exact ⟨fun hv => (nomatch hv), fun _ => ⟨rfl, rfl, rfl, rfl, rfl, rfl, rfl⟩, hup, hdown, hsel, hbyp⟩

/-- A request writes factors in [1,4] and a kernel choice for them (R72, R352). -/
theorem rrcGood_rrcPrepare (upW downW : Word) {s : State} {r : Rse} (h : rrcGood s.rrc r) :
    rrcGood (rrcPrepare upW downW s).rrc r := by
  obtain ⟨hvalid, hinvalid, -⟩ := h
  have hfactor : ∀ x : Int, 1 ≤ (resultU32 (clampFactor x)).toNat ∧ (resultU32 (clampFactor x)).toNat ≤ 4 := by
    intro x
    have := clampFactor_range x
    rwa [resultU32_toNat (by omega)]
  refine ⟨hvalid, hinvalid, hfactor _, hfactor _, ?sel, ?bypass⟩
  case sel =>
    have hup := clampFactor_range (operandS32 upW)
    have hdown := clampFactor_range (operandS32 downW)
    have hmax : Nat.max (clampFactor (operandS32 upW)) (clampFactor (operandS32 downW)) ≤ 4 :=
      Nat.max_le.2 ⟨hup.2, hdown.2⟩
    simp only [rrcPrepare]
    split
    · decide
    · rw [BitVec.toNat_ofNat]; omega
  case bypass => exact fun hb => if_pos hb

/-- The negotiation of a good ACTIVE engine at its own block length is good: no field exceeds INMAX or U, so none wraps
(R73 to R75, 41 R353). -/
theorem rrcGood_rrcNegotiated {p : Params} {c : Rrc} {r : Rse} (hm : r.mode = .active) (he : engineGood p r)
    (hc : rrcGood c r) : rrcGood (rrcNegotiated r.n.toNat c r) r := by
  obtain ⟨-, -, hup, hdown, hsel, hbyp⟩ := hc
  obtain ⟨hu, hinmax⟩ := engineGood_inmax hm he
  obtain ⟨hmin, hmax, hnummin, hnummax, hcyc, hcyc'⟩ := negotiate_sizes r.n.toNat r.d.toNat hu
  have hin := r.inmax.isLt
  have hlt := r.u.isLt
  have ecyc := resultU32_toNat (hcyc'.trans_lt hlt)
  refine ⟨fun _ => ⟨hm, BitVec.ofNat_toNat _ _ |>.trans (BitVec.setWidth_eq _), ?_, resultU32_toNat (by omega),
    resultU32_toNat (by omega), resultU32_toNat (hnummin.trans_lt hlt), resultU32_toNat (hnummax.trans_lt hlt), ecyc⟩,
    fun h => (nomatch h), hup, hdown, hsel, hbyp⟩
  exact ecyc.symm ▸ hcyc

/-- The cursor's move stays in the cycle (R75, 41 R360). -/
theorem rrcGood_rrcAdvance {s : State} (hv : s.rrc.valid = true) (h : rrcGood s.rrc s.rse) :
    rrcGood (rrcAdvance s).rrc s.rse := by
  obtain ⟨hvalid, -, hrest⟩ := h
  obtain ⟨hm, hn, hcur, hneg⟩ := hvalid hv
  have hmod : (s.rrc.cur.toNat + 1) % s.rrc.cyc.toNat < s.rrc.cyc.toNat := Nat.mod_lt _ (by omega)
  have hcur' : (rrcAdvance s).rrc.cur.toNat < s.rrc.cyc.toNat := by
    rwa [rrcAdvance_rrc, resultU32_toNat (hmod.trans s.rrc.cyc.isLt)]
  exact ⟨fun _ => ⟨hm, hn, hcur', hneg⟩, fun h => absurd (hv.symm.trans h) (by decide), hrest⟩

end Sys2Proof.Machine
end

section
/-! SUPPORT. The ENV unit's part of the invariant (R94(d) to (f), R82): every transition ends with a budget exactly in
the running phases, and the cursor stays within the buffer. -/

namespace Sys2Proof.Machine

/-! ### The registers that playing leaves alone -/

/-- The parameters of ENV (R80 to R82, R84, R85) with the registers that playing moves (R83, R86) blanked: two envelopes
with the same `envParams` differ in the playing registers alone. -/
def envParams (e : Env) : Env :=
  { e with phase := .finished, cursor := 0, budget := 0, gain := 0, fact := 0, tgt := 0 }

theorem envParams_eq_iff (e e' : Env) :
    envParams e' = envParams e ↔
      (e'.append = e.append ∧ e'.smpv = e.smpv ∧ e'.dstv = e.dstv ∧ e'.fs = e.fs ∧ e'.slen = e.slen) ∧
      (e'.atkP = e.atkP ∧ e'.decP = e.decP ∧ e'.relP = e.relP ∧ e'.susP = e.susP ∧ e'.fadeP = e.fadeP) ∧
      (e'.na = e.na ∧ e'.nd = e.nd ∧ e'.ns = e.ns ∧ e'.nr = e.nr ∧ e'.nf = e.nf ∧ e'.slvl = e.slvl ∧
        e'.len = e.len) := by
  simp only [envParams, Env.mk.injEq]
  tauto

@[simp] theorem envParams_envFinish (e : Env) : envParams (envFinish e) = envParams e := rfl

@[simp] theorem envParams_envEnter (p : EnvPhase) (e : Env) : envParams (envEnter p e) = envParams e := rfl

@[simp] theorem envParams_envAdvance (e : Env) : envParams (envAdvance e) = envParams e := by
  obtain ⟨ph, b, g, f, t, h⟩ := advanceThrough_frame (phasesAfter e.phase) e
  rw [envAdvance, h]
  rfl

@[simp] theorem envParams_envPlaying (e : Env) : envParams (envPlaying e) = envParams e := by
  unfold envPlaying
  split
  · exact envParams_envAdvance e
  · rfl

@[simp] theorem envParams_envStepped (e : Env) (g : Word) : envParams (envStepped e g) = envParams e := by
  unfold envStepped
  simp only []
  split
  · rfl
  · split
    · exact envParams_envAdvance _
    · rfl

/-- A run of samples moves only the playing registers (42 R422). -/
theorem envParams_envSamples (n : Nat) (s : State) : envParams (envSamples n s).2.env = envParams s.env := by
  induction n generalizing s with
  | zero => rfl
  | succ n ih =>
    unfold envSamples
    rcases envSample_cases s with ⟨_, h⟩ | ⟨_, _, h⟩ | ⟨_, _, _, h⟩ | ⟨_, _, _, h⟩ <;> rw [h]
    · rfl
    · exact envParams_envPlaying s.env
    · calc envParams (envSamples n (envEmit (envPlaying s.env) s).2).2.env
        _ = envParams (envStepped (envPlaying s.env) (gainStep s.draws (envPlaying s.env))) := ih _
        _ = envParams s.env := by rw [envParams_envStepped, envParams_envPlaying]

/-! ### Transitions -/

/-- The bounds of the cursor, the latched length and ENV_SLEN (R94(f), R82). -/
def envBounded (p : Params) (e : Env) : Prop :=
  e.cursor.toNat ≤ e.len.toNat ∧ e.len.toNat ≤ p.capSmp.toNat ∧ e.slen.toNat ≤ p.capSmp.toNat

theorem envGood_iff (p : Params) (e : Env) :
    envGood p e ↔ (phaseRuns e.phase = true → e.budget ≠ 0) ∧ (phaseRuns e.phase = false → e.budget = 0) ∧
      envBounded p e := Iff.rfl

theorem envGood_envFinish {p : Params} {e : Env} (h : envBounded p e) : envGood p (envFinish e) :=
  ⟨fun hr => (nomatch hr), fun _ => rfl, h⟩

theorem phaseRuns_of_ne {p : EnvPhase} (hready : p ≠ .ready) (hfin : p ≠ .finished) : phaseRuns p = true := by
  cases p
  case ready => exact absurd rfl hready
  case finished => exact absurd rfl hfin
  all_goals rfl

/-- Every phase that comes after another one is a running phase (42 R411). -/
theorem phaseRuns_of_mem_phasesAfter {p q : EnvPhase} (h : q ∈ phasesAfter p) : phaseRuns q = true := by
  refine phaseRuns_of_ne ?_ ?_ <;> rintro rfl <;> cases p <;> simp [phasesAfter] at h

/-- ADVANCE does not move the cursor, and ends with a budget exactly in a running phase (R94(d), (e)). -/
theorem envGood_envAdvance {p : Params} {e : Env} (h : envBounded p e) : envGood p (envAdvance e) := by
  have hbounds : envBounded p (envAdvance e) := by
    obtain ⟨ph, b, g, f, t, heq⟩ := advanceThrough_frame (phasesAfter e.phase) e
    rw [envAdvance, heq]
    exact h
  rcases advanceThrough_budget (phasesAfter e.phase) e with ⟨hph, hb⟩ | ⟨hmem, -, hb⟩
  · exact ⟨fun hr => absurd (hph ▸ hr : phaseRuns .finished = true) (by decide), fun _ => hb, hbounds⟩
  · have hruns := phaseRuns_of_mem_phasesAfter hmem
    exact ⟨fun _ => hb, fun hr => absurd (hruns.symm.trans hr) (by decide), hbounds⟩

theorem envGood_envPlaying {p : Params} {e : Env} (h : envGood p e) : envGood p (envPlaying e) := by
  unfold envPlaying
  split
  · exact envGood_envAdvance h.2.2
  · exact h

theorem envPlaying_cursor_len (e : Env) : (envPlaying e).cursor = e.cursor ∧ (envPlaying e).len = e.len := by
  unfold envPlaying
  split
  · obtain ⟨ph, b, g, f, t, heq⟩ := advanceThrough_frame (phasesAfter e.phase) e
    rw [envAdvance, heq]
    exact ⟨rfl, rfl⟩
  · exact ⟨rfl, rfl⟩

/-- Ready is left, so the envelope that a sample is taken in runs or is Finished (42 R422). -/
theorem phaseRuns_envPlaying {e : Env} (h : (envPlaying e).phase ≠ .finished) :
    phaseRuns (envPlaying e).phase = true := by
  unfold envPlaying at h ⊢
  split
  · next hready =>
    rw [if_pos hready] at h
    rcases advanceThrough_budget (phasesAfter e.phase) e with ⟨hph, -⟩ | ⟨hmem, -, -⟩
    · exact absurd hph h
    · exact phaseRuns_of_mem_phasesAfter hmem
  · next hready =>
    rw [if_neg hready] at h
    exact phaseRuns_of_ne hready h

/-- A sample short of the buffer's end keeps the cursor within the buffer, and a budget used up is a transition. -/
theorem envGood_envStepped {p : Params} {e : Env} (g : Word) (hr : phaseRuns e.phase = true) (hlt : e.cursor < e.len)
    (h : envGood p e) : envGood p (envStepped e g) := by
  obtain ⟨-, -, -, hlen, hslen⟩ := h
  have hcur : (e.cursor + 1).toNat ≤ e.len.toNat := by bv_omega
  unfold envStepped
  simp only []
  split
  · exact envGood_envFinish ⟨hcur, hlen, hslen⟩
  · split
    · exact envGood_envAdvance ⟨hcur, hlen, hslen⟩
    · next hb => exact ⟨fun _ => hb, fun hf => absurd (hr.symm.trans hf) (by decide), hcur, hlen, hslen⟩

/-- A run of samples keeps the envelope good. -/
theorem envGood_envSamples (n : Nat) {s : State} (h : envGood s.inst s.env) : envGood s.inst (envSamples n s).2.env := by
  induction n generalizing s with
  | zero => exact h
  | succ n ih =>
    unfold envSamples
    rcases envSample_cases s with ⟨_, hc⟩ | ⟨_, _, hc⟩ | ⟨_, _, _, hc⟩ | ⟨_, hlt, hph, hc⟩ <;> rw [hc]
    · exact h
    · exact envGood_envFinish h.2.2
    · exact envGood_envPlaying h
    · obtain ⟨hcur, hlen⟩ := envPlaying_cursor_len s.env
      refine ih (s := (envEmit (envPlaying s.env) s).2)
        (envGood_envStepped _ (phaseRuns_envPlaying hph) ?_ (envGood_envPlaying h))
      rw [hcur, hlen]
      exact BitVec.not_le.1 hlt

/-- ENV_ON takes the length from ENV_SLEN and starts in Ready at 0 (42 R400, R403). -/
theorem envGood_envLatch {p : Params} {e : Env} (h : envGood p e) (gain fact tgt : Word) :
    envGood p { envLatch e with cursor := 0, phase := .ready, budget := 0, gain := gain, fact := fact, tgt := tgt } := by
  obtain ⟨-, -, -, -, hslen⟩ := h
  exact ⟨fun hr => (nomatch hr), fun _ => rfl, Nat.zero_le _, hslen, hslen⟩

end Sys2Proof.Machine
end

section
/-! SUPPORT. What each command with more than one end can do: one lemma for each, with the guards of its ends in the
order of its checks. -/

namespace Sys2Proof.Machine

/-- RSE_INIT (40 R260): configured, or failed with EINITCAP. -/
theorem exec_rseInit_cases (s : State) :
    (∃ t, engineInit (operandU32 s.arg.a0) (operandU32 s.arg.a1) (operandU32 s.arg.a2) (operandU32 s.arg.a3) s = .ok t ∧
      exec .rseInit s = .next t) ∨
    (engineInit (operandU32 s.arg.a0) (operandU32 s.arg.a1) (operandU32 s.arg.a2) (operandU32 s.arg.a3) s =
        .error (failEngine s) ∧
      exec .rseInit s = .next (raiseIn .einitcap .rseInit (failEngine s))) := by
  simp only [exec, execRseInit]
  split
  · next t hok => exact .inl ⟨t, hok, rfl⟩
  · next t herr =>
    obtain rfl := engineInit_error herr
    exact .inr ⟨herr, rfl⟩

/-- RSE_APPLY (40 R265): ENOTINIT, EINLEN, or the apply of the engine's mode. -/
theorem exec_rseApply_cases (s : State) :
    (s.rse.mode ≠ .active ∧ exec .rseApply s = .next (raiseIn .enotinit .rseApply s)) ∨
    (s.rse.mode = .active ∧ s.rse.inmax.toNat < operandU32 s.arg.a0 ∧
      exec .rseApply s = .next (raiseIn .einlen .rseApply s)) ∨
    (s.rse.mode = .active ∧ operandU32 s.arg.a0 ≤ s.rse.inmax.toNat ∧ s.rse.byp = true ∧
      exec .rseApply s = .next (applyBypass (operandU32 s.arg.a0) s)) ∨
    (s.rse.mode = .active ∧ operandU32 s.arg.a0 ≤ s.rse.inmax.toNat ∧ s.rse.byp = false ∧
      exec .rseApply s = .next (applyFilter (operandU32 s.arg.a0) s)) := by
  simp only [exec, execRseApply]
  split
  · next hm => exact .inl ⟨hm, rfl⟩
  next hm =>
  split
  · next hlen => exact .inr (.inl ⟨not_not.1 hm, hlen, rfl⟩)
  next hlen =>
  split
  · next hb => exact .inr (.inr (.inl ⟨not_not.1 hm, Nat.le_of_not_lt hlen, hb, rfl⟩))
  · next hb => exact .inr (.inr (.inr ⟨not_not.1 hm, Nat.le_of_not_lt hlen, Bool.eq_false_of_not_eq_true hb, rfl⟩))

/-- RSE_LENIN (40 R275): ENOTINIT, ERANGE, or the negotiation in RES0 to RES3. -/
theorem exec_rseLenin_cases (s : State) (g : Negotiation)
    (hg : g = negotiate (operandU32 s.arg.a0) s.rse.u.toNat s.rse.d.toNat) :
    (s.rse.mode ≠ .active ∧ exec .rseLenin s = .next (raiseIn .enotinit .rseLenin s)) ∨
    (s.rse.mode = .active ∧ 2 ^ 32 ≤ g.max ∧ exec .rseLenin s = .next (raiseIn .erange .rseLenin s)) ∨
    (s.rse.mode = .active ∧ g.max < 2 ^ 32 ∧
      exec .rseLenin s =
        .next { s with res := ⟨resultU32 g.min, resultU32 g.max, resultU32 g.nummin, resultU32 g.nummax⟩ }) := by
  subst hg
  simp only [exec, execRseLenin]
  split
  · next hm => exact .inl ⟨hm, rfl⟩
  next hm =>
  split
  · next hr => exact .inr (.inl ⟨not_not.1 hm, hr, rfl⟩)
  · next hr => exact .inr (.inr ⟨not_not.1 hm, Nat.lt_of_not_le hr, rfl⟩)

/-- RSE_LENOUT (40 R277): ENOTINIT, ERANGE, or the length in RES0. -/
theorem exec_rseLenout_cases (s : State) (o : Nat)
    (ho : o = lenOut (operandU32 s.arg.a0) s.rse.u.toNat s.rse.d.toNat) :
    (s.rse.mode ≠ .active ∧ exec .rseLenout s = .next (raiseIn .enotinit .rseLenout s)) ∨
    (s.rse.mode = .active ∧ 2 ^ 32 ≤ o ∧ exec .rseLenout s = .next (raiseIn .erange .rseLenout s)) ∨
    (s.rse.mode = .active ∧ o < 2 ^ 32 ∧ exec .rseLenout s = .next { s with res := { s.res with r0 := resultU32 o } }) := by
  subst ho
  simp only [exec, execRseLenout]
  split
  · next hm => exact .inl ⟨hm, rfl⟩
  next hm =>
  split
  · next hr => exact .inr (.inl ⟨not_not.1 hm, hr, rfl⟩)
  · next hr => exact .inr (.inr ⟨not_not.1 hm, Nat.lt_of_not_le hr, rfl⟩)

/-- RRC_CONFIG (41 R350): set up, or failed with EINITCAP. -/
theorem exec_rrcConfig_cases (s : State) :
    (∃ t, rrcSetup s.arg.a0 s.arg.a1 (operandU32 s.arg.a2) s = .ok t ∧ exec .rrcConfig s = .next t) ∨
    (∃ t, rrcSetup s.arg.a0 s.arg.a1 (operandU32 s.arg.a2) s = .error t ∧
      exec .rrcConfig s = .next (raiseIn .einitcap .rrcConfig t)) := by
  simp only [exec, execRrcConfig]
  split
  · next t hok => exact .inl ⟨t, hok, rfl⟩
  · next t herr => exact .inr ⟨t, herr, rfl⟩

/-- RRC_NEXT (41 R360): ENOTCFG, or the due length and the cursor's move. -/
theorem exec_rrcNext_cases (s : State) :
    (s.rrc.valid = false ∧ exec .rrcNext s = .next (raiseIn .enotcfg .rrcNext s)) ∨
    (s.rrc.valid = true ∧
      exec .rrcNext s = .next { rrcAdvance s with res := { s.res with r0 := resultU32 (rrcDue s) } }) := by
  simp only [exec, execRrcNext]
  split
  · next hv => exact .inl ⟨hv, rfl⟩
  · next hv => exact .inr ⟨Bool.eq_true_of_not_eq_false hv, rfl⟩

/-- ENV_OFF (42 R405): no effect in Fadeout and Finished; elsewhere it finishes, or enters Fadeout with a budget. -/
theorem exec_envOff_cases (s : State) :
    ((s.env.phase = .fadeout ∨ s.env.phase = .finished) ∧ exec .envOff s = .next s) ∨
    (¬(s.env.phase = .fadeout ∨ s.env.phase = .finished) ∧
      exec .envOff s = .next { s with env := if s.env.nf = 0 then envFinish s.env else envEnter .fadeout s.env }) := by
  cases hph : s.env.phase
  case fadeout => exact .inl ⟨.inl rfl, by simp only [exec, execEnvOff, hph]⟩
  case finished => exact .inl ⟨.inr rfl, by simp only [exec, execEnvOff, hph]⟩
  all_goals exact .inr ⟨by decide, by simp only [exec, execEnvOff, hph]⟩

/-- ENV_PLAY (42 R440, R441): EDSTLEN; finished by a null buffer; nothing in Finished; played after a reconfiguration,
or refused where that fails; or played as it stands. -/
theorem exec_envPlay_cases (s : State) (n : Nat) (hn : n = operandU32 s.arg.a0) :
    (s.inst.capDst.toNat < n ∧ exec .envPlay s = .next (raiseIn .edstlen .envPlay s)) ∨
    (n ≤ s.inst.capDst.toNat ∧ (s.env.smpv = false ∨ s.env.dstv = false) ∧
      exec .envPlay s = .next { s with env := envFinish s.env }) ∨
    (n ≤ s.inst.capDst.toNat ∧ ¬(s.env.smpv = false ∨ s.env.dstv = false) ∧ s.env.phase = .finished ∧
      exec .envPlay s = .next s) ∨
    (n ≤ s.inst.capDst.toNat ∧ ¬(s.env.smpv = false ∨ s.env.dstv = false) ∧ s.env.phase ≠ .finished ∧
      (s.rrc.valid = false ∨ s.rrc.nblk ≠ s.arg.a0) ∧
      ((∃ t, rrcSetup s.rrc.upreq s.rrc.downreq n s = .ok t ∧ exec .envPlay s = .next (playPath n t)) ∨
        (∃ t, rrcSetup s.rrc.upreq s.rrc.downreq n s = .error t ∧
          exec .envPlay s = .next (raiseIn .einitcap .envPlay t)))) ∨
    (n ≤ s.inst.capDst.toNat ∧ ¬(s.env.smpv = false ∨ s.env.dstv = false) ∧ s.env.phase ≠ .finished ∧
      s.rrc.valid = true ∧ s.rrc.nblk = s.arg.a0 ∧ exec .envPlay s = .next (playPath n s)) := by
  subst hn
  simp only [exec, execEnvPlay]
  split
  · next hlen => exact .inl ⟨hlen, rfl⟩
  next hlen =>
  replace hlen := Nat.le_of_not_lt hlen
  split
  · next hnull => exact .inr (.inl ⟨hlen, hnull, rfl⟩)
  next hnull =>
  split
  · next hfin => exact .inr (.inr (.inl ⟨hlen, hnull, hfin, rfl⟩))
  next hfin =>
  split
  · next hdue =>
    refine .inr (.inr (.inr (.inl ⟨hlen, hnull, hfin, hdue, ?_⟩)))
    split
    · next t hok => exact .inl ⟨t, hok, rfl⟩
    · next t herr => exact .inr ⟨t, herr, rfl⟩
  · next hdue =>
    obtain ⟨hv, hblk⟩ := not_or.1 hdue
    exact .inr (.inr (.inr (.inr ⟨hlen, hnull, hfin, Bool.eq_true_of_not_eq_false hv, not_not.1 hblk, rfl⟩)))

end Sys2Proof.Machine
end

section
/-! PROOFS. O55, O56: the invariant of the block (10_state R94 and the register rules beside it) holds at reset, and
every shared operation, every command, every bus transaction and so every step keeps it. -/

namespace Sys2Proof.Machine

/-! ### STATUS -/

theorem statusGood_zero : statusGood Status.zero := ⟨fun _ => ⟨rfl, rfl⟩, nofun⟩

/-- RECORD sets a code of R531 beside ERR, or keeps the one that is there (60_exceptions R532). -/
theorem statusGood_statusRecord {st : Status} (code : ErrorCode) (opc : Byte) (h : statusGood st) :
    statusGood (statusRecord st code opc) := by
  rcases statusRecord_cases st code opc with ⟨_, heq⟩ | ⟨_, heq⟩ <;> rw [heq]
  · exact ⟨nofun, fun _ => errorCodeByte_range code⟩
  · exact h

/-- A host write to STATUS clears ERRCODE and ERROPC together with ERR (R53). -/
theorem statusGood_statusClear {st : Status} (w : Word) (h : statusGood st) : statusGood (statusClear st w) := by
  obtain ⟨hclear, hset⟩ := h
  cases hw : w.getLsbD 1
  · simp only [statusGood, statusClear, hw, Bool.not_false, Bool.and_true, Bool.false_eq_true, if_false]
    exact ⟨hclear, hset⟩
  · simp [statusGood, statusClear, hw]

/-! ### Reset -/

theorem rrcGood_atReset : rrcGood Rrc.atReset Rse.zero :=
  ⟨nofun, fun _ => ⟨rfl, rfl, rfl, rfl, rfl, rfl, rfl⟩, by decide, by decide, by decide, nofun⟩

theorem envGood_atReset (p : Params) : envGood p Env.atReset :=
  ⟨nofun, fun _ => rfl, Nat.le_refl _, Nat.zero_le _, Nat.zero_le _⟩

/-- Registers at their reset values meet the invariant with good memory and a good command in flight (R96). -/
theorem inv_resetRegisters {s : State} (hmem : memoryGood s) (hpending : pendingGood s) :
    State.Inv (resetRegisters s) :=
  ⟨hmem, statusGood_zero, engineGood_zero s.inst nofun, rrcGood_atReset, envGood_atReset s.inst, hpending⟩

theorem inv_powerOnReset (s : State) : State.Inv (powerOnReset s) :=
  inv_resetRegisters (s := { s with mem := [], pending := none, rdata := 0, epoch := s.epoch + 1 }) ⟨rfl, rfl⟩ nofun

theorem inv_resetOf (p : Params) : State.Inv (State.resetOf p) :=
  inv_resetRegisters (s := State.resetOf p) ⟨rfl, rfl⟩ nofun

/-- Settles O56: registers at their reset values, no memory written and no command in flight, for all parameters. -/
theorem resetMeetsTheInvariant : Obligations.ResetMeetsTheInvariant :=
  ⟨inv_resetOf Config.reference, inv_resetOf⟩

/-! ### Shared operations -/

theorem inv_raiseError {s : State} (code : ErrorCode) (opc : Byte) (h : State.Inv s) :
    State.Inv (raiseError code opc s) := by
  obtain ⟨hmem, hstatus, hrest⟩ := h
  exact ⟨hmem, statusGood_statusRecord code opc hstatus, hrest⟩

theorem inv_raiseIn {s : State} (code : ErrorCode) (i : Instr) (h : State.Inv s) : State.Inv (raiseIn code i s) :=
  inv_raiseError code _ h

theorem inv_writeBlock {s : State} (w : Window) (i : Nat) (ws : List Word) (h : State.Inv s) :
    State.Inv (writeBlock s w i ws) := by
  obtain ⟨hmem, hrest⟩ := h
  exact ⟨memoryGood_writeBlock s w i ws hmem, hrest⟩

/-- An engine without a configuration comes with an invalid negotiation (40 R261, R262, R264). -/
theorem inv_unconfigured {s : State} {m : EngineMode} (hm : m ≠ .active) (h : State.Inv s) :
    State.Inv { s with rse := { Rse.zero with mode := m }, rrc := invalidateRrc s.rrc } := by
  obtain ⟨hmem, hstatus, _, hrrc, henv, hpending⟩ := h
  exact ⟨hmem, hstatus, engineGood_zero s.inst hm, rrcGood_invalidateRrc _ hrrc, henv, hpending⟩

theorem inv_tearDown {s : State} (h : State.Inv s) : State.Inv (tearDown s) :=
  inv_unconfigured (s := s) (m := .uninit) nofun h

theorem inv_failEngine {s : State} (h : State.Inv s) : State.Inv (failEngine s) :=
  inv_unconfigured (s := s) (m := .failed) nofun h

theorem inv_engineInit_ok {up down n klen : Nat} {s t : State} (hup : up < 2 ^ 32) (hdown : down < 2 ^ 32)
    (h : State.Inv s) (hok : engineInit up down n klen s = .ok t) : State.Inv t := by
  obtain ⟨hmem, hstatus, _, hrrc, henv, hpending⟩ := h
  obtain ⟨hengine, _, _, ht⟩ := engineInit_ok hup hdown hok
  rw [ht]
  exact ⟨memoryGood_writeBlock s _ _ _ hmem, hstatus, hengine, rrcGood_invalidateRrc _ hrrc, henv, hpending⟩

theorem inv_rrcPrepare {s : State} (upW downW : Word) (h : State.Inv s) : State.Inv (rrcPrepare upW downW s) := by
  obtain ⟨hmem, hstatus, hengine, hrrc, hrest⟩ := h
  exact ⟨memoryGood_writeBlock s .kmem 0 _ hmem, hstatus, hengine, rrcGood_rrcPrepare upW downW hrrc, hrest⟩

/-- A successful `RRC_SETUP` leaves a valid negotiation of a good engine; a failed one, a failed engine (41 R351). -/
theorem inv_rrcSetup {s : State} (upW downW : Word) {n : Nat} (hn : n < 2 ^ 32) (h : State.Inv s) :
    (∀ t, rrcSetup upW downW n s = .ok t → State.Inv t ∧ t.rrc.valid = true) ∧
    (∀ t, rrcSetup upW downW n s = .error t → State.Inv t) := by
  have hprep := inv_rrcPrepare upW downW h
  have hfactor : ∀ x, clampFactor x < 2 ^ 32 := fun x => by have := clampFactor_range x; omega
  rcases rrcSetup_cases upW downW n s with ⟨t', hinit, heq⟩ | ⟨t', hinit, heq⟩ <;> rw [heq]
  · refine ⟨fun t ht => ?_, fun t ht => by cases ht⟩
    obtain rfl := Except.ok.inj ht
    obtain ⟨_, hmode, hlen, _⟩ := engineInit_ok (hfactor _) (hfactor _) hinit
    have hlen' : t'.rse.n.toNat = n := hlen ▸ resultU32_toNat hn
    obtain ⟨hmem, hstatus, hgood, hrrc, henv, hpending⟩ := inv_engineInit_ok (hfactor _) (hfactor _) hprep hinit
    exact ⟨⟨hmem, hstatus, hgood, hlen' ▸ rrcGood_rrcNegotiated hmode hgood hrrc, henv, hpending⟩, rfl⟩
  · refine ⟨fun t ht => (by cases ht), fun t ht => ?_⟩
    obtain rfl := Except.error.inj ht
    rw [engineInit_error hinit]
    exact inv_failEngine hprep

theorem inv_rrcAdvance {s : State} (hv : s.rrc.valid = true) (h : State.Inv s) : State.Inv (rrcAdvance s) := by
  obtain ⟨hmem, hstatus, hengine, hrrc, hrest⟩ := h
  exact ⟨hmem, hstatus, hengine, rrcGood_rrcAdvance hv hrrc, hrest⟩

/-- An apply keeps the engine's mode, block length and ratio, so a negotiation stays the engine's own. -/
theorem inv_applyFilter {s : State} (numIn : Nat) (hm : s.rse.mode = .active) (hb : s.rse.byp = false)
    (h : State.Inv s) : State.Inv (applyFilter numIn s) := by
  obtain ⟨hmem, hstatus, hengine, hrest⟩ := h
  exact ⟨memoryGood_applyFilter numIn s hmem, hstatus, engineGood_applyEngine _ _ hm hb hengine, hrest⟩

theorem inv_applyBypass {s : State} (numIn : Nat) (hm : s.rse.mode = .active) (h : State.Inv s) :
    State.Inv (applyBypass numIn s) := by
  obtain ⟨hmem, hstatus, ⟨_, hactive, hfilter, hbypass⟩, hrest⟩ := h
  exact ⟨memoryGood_writeBlock s .out 0 _ hmem, hstatus, ⟨fun h => absurd hm h, hactive, hfilter, hbypass⟩, hrest⟩

theorem inv_setEnv {s : State} {e : Env} (he : envGood s.inst e) (h : State.Inv s) : State.Inv { s with env := e } := by
  obtain ⟨hmem, hstatus, hengine, hrrc, _, hpending⟩ := h
  exact ⟨hmem, hstatus, hengine, hrrc, he, hpending⟩

theorem envGood_of_inv {s : State} (h : State.Inv s) : envGood s.inst s.env := by
  obtain ⟨_, _, _, _, henv, _⟩ := h
  exact henv

theorem envBounded_of_inv {s : State} (h : State.Inv s) : envBounded s.inst s.env :=
  ((envGood_iff s.inst s.env).1 (envGood_of_inv h)).2.2

theorem inv_envSamples {s : State} (n : Nat) (h : State.Inv s) : State.Inv (envSamples n s).2 := by
  have he := envGood_envSamples n (envGood_of_inv h)
  obtain ⟨e, heq⟩ := envSamples_frame n s
  rw [heq] at he ⊢
  exact inv_setEnv he h

theorem inv_writeSamples {s : State} (xs : List Word) (h : State.Inv s) : State.Inv (writeSamples xs s) :=
  inv_writeBlock .dst 0 _ h

/-- A valid negotiation makes the engine ACTIVE, so either path of ENV_PLAY keeps the invariant (42 R442, R443). -/
theorem inv_playPath {s : State} (n : Nat) (hv : s.rrc.valid = true) (h : State.Inv s) : State.Inv (playPath n s) := by
  unfold playPath
  split
  · exact inv_writeSamples _ (inv_envSamples n h)
  · next hb =>
    have hactive : s.rse.mode = .active := by
      obtain ⟨_, _, _, ⟨hvalid, _⟩, _⟩ := h
      exact (hvalid hv).1
    have hsamples := inv_envSamples (rrcDue s) (inv_rrcAdvance hv h)
    obtain ⟨e, hframe⟩ := envSamples_frame (rrcDue s) (rrcAdvance s)
    have hrse : (envSamples (rrcDue s) (rrcAdvance s)).2.rse = s.rse := by rw [hframe]; rfl
    refine inv_writeSamples _ (inv_applyFilter _ ?_ ?_ (inv_writeBlock .inp 0 _ hsamples))
    · exact hrse ▸ hactive
    · exact hrse ▸ Bool.eq_false_of_not_eq_true hb

/-! ### Commands -/

theorem inv_rseInit {s t : State} (h : State.Inv s) (hexec : exec .rseInit s = .next t) : State.Inv t := by
  rcases exec_rseInit_cases s with ⟨t', hok, heq⟩ | ⟨_, heq⟩ <;> cases heq.symm.trans hexec
  · exact inv_engineInit_ok s.arg.a0.isLt s.arg.a1.isLt h hok
  · exact inv_raiseIn _ _ (inv_failEngine h)

theorem inv_rseApply {s t : State} (h : State.Inv s) (hexec : exec .rseApply s = .next t) : State.Inv t := by
  rcases exec_rseApply_cases s with ⟨_, heq⟩ | ⟨_, _, heq⟩ | ⟨hm, _, _, heq⟩ | ⟨hm, _, hb, heq⟩ <;>
    cases heq.symm.trans hexec
  · exact inv_raiseIn _ _ h
  · exact inv_raiseIn _ _ h
  · exact inv_applyBypass _ hm h
  · exact inv_applyFilter _ hm hb h

theorem inv_rseLenin {s t : State} (h : State.Inv s) (hexec : exec .rseLenin s = .next t) : State.Inv t := by
  rcases exec_rseLenin_cases s _ rfl with ⟨_, heq⟩ | ⟨_, _, heq⟩ | ⟨_, _, heq⟩ <;> cases heq.symm.trans hexec
  · exact inv_raiseIn _ _ h
  · exact inv_raiseIn _ _ h
  · exact h

theorem inv_rseLenout {s t : State} (h : State.Inv s) (hexec : exec .rseLenout s = .next t) : State.Inv t := by
  rcases exec_rseLenout_cases s _ rfl with ⟨_, heq⟩ | ⟨_, _, heq⟩ | ⟨_, _, heq⟩ <;> cases heq.symm.trans hexec
  · exact inv_raiseIn _ _ h
  · exact inv_raiseIn _ _ h
  · exact h

theorem inv_rrcConfig {s t : State} (h : State.Inv s) (hexec : exec .rrcConfig s = .next t) : State.Inv t := by
  obtain ⟨hok, herr⟩ := inv_rrcSetup s.arg.a0 s.arg.a1 s.arg.a2.isLt h
  rcases exec_rrcConfig_cases s with ⟨t', hsetup, heq⟩ | ⟨t', hsetup, heq⟩ <;> cases heq.symm.trans hexec
  · exact (hok _ hsetup).1
  · exact inv_raiseIn _ _ (herr _ hsetup)

theorem inv_rrcNext {s t : State} (h : State.Inv s) (hexec : exec .rrcNext s = .next t) : State.Inv t := by
  rcases exec_rrcNext_cases s with ⟨_, heq⟩ | ⟨hv, heq⟩ <;> cases heq.symm.trans hexec
  · exact inv_raiseIn _ _ h
  · exact inv_rrcAdvance hv h

theorem inv_envOff {s t : State} (h : State.Inv s) (hexec : exec .envOff s = .next t) : State.Inv t := by
  have hbounds := envBounded_of_inv h
  rcases exec_envOff_cases s with ⟨_, heq⟩ | ⟨_, heq⟩ <;> cases heq.symm.trans hexec
  · exact h
  · refine inv_setEnv ?_ h
    split
    · exact envGood_envFinish hbounds
    · next hnf => exact ⟨fun _ => hnf, nofun, hbounds⟩

theorem inv_envPlay {s t : State} (h : State.Inv s) (hexec : exec .envPlay s = .next t) : State.Inv t := by
  obtain ⟨hok, herr⟩ := inv_rrcSetup s.rrc.upreq s.rrc.downreq s.arg.a0.isLt h
  rcases exec_envPlay_cases s _ rfl with ⟨_, heq⟩ | ⟨_, _, heq⟩ | ⟨_, _, _, heq⟩ |
      ⟨_, _, _, _, ⟨t', hsetup, heq⟩ | ⟨t', hsetup, heq⟩⟩ | ⟨_, _, _, hv, _, heq⟩ <;>
    cases heq.symm.trans hexec
  · exact inv_raiseIn _ _ h
  · exact inv_setEnv (envGood_envFinish (envBounded_of_inv h)) h
  · exact h
  · obtain ⟨hinv, hvalid⟩ := hok t' hsetup
    exact inv_playPath _ hvalid hinv
  · exact inv_raiseIn _ _ (herr t' hsetup)
  · exact inv_playPath _ hv h

/-- Every command keeps the invariant. -/
theorem inv_exec (i : Instr) {s t : State} (h : State.Inv s) (hexec : exec i s = .next t) : State.Inv t := by
  cases i
  case rseInit => exact inv_rseInit h hexec
  case rseApply => exact inv_rseApply h hexec
  case rseLenin => exact inv_rseLenin h hexec
  case rseLenout => exact inv_rseLenout h hexec
  case rrcConfig => exact inv_rrcConfig h hexec
  case rrcNext => exact inv_rrcNext h hexec
  case envOff => exact inv_envOff h hexec
  case envPlay => exact inv_envPlay h hexec
  case srst =>
    obtain ⟨hmem, _, _, _, _, hpending⟩ := h
    cases hexec
    exact inv_resetRegisters hmem hpending
  case rseDeinit => cases hexec; exact inv_tearDown h
  case envOn => cases hexec; exact inv_setEnv (envGood_envLatch (envGood_of_inv h) _ _ _) h
  case nop | rseIsbyp | rseGcd | envSetadsr | envSetfade | envRemain => cases hexec; exact h

/-! ### The bus and the clock -/

/-- The host's writes: CMD starts a command with a cycle left, STATUS clears flags, ENV_SLEN keeps its bound (R52, R53,
R82), and ARG, ENV_CTRL, ENV_FS and the read-only registers are outside the invariant. -/
theorem inv_writeReg {s : State} {lat : Nat} (hlat : 1 ≤ lat) (v : Word) (r : Reg) (h : State.Inv s) :
    State.Inv (writeReg lat v s r) := by
  cases r
  case cmd =>
    obtain ⟨hmem, hstatus, hengine, hrrc, henv, _⟩ := h
    exact ⟨hmem, hstatus, hengine, hrrc, henv, fun p hp => by cases hp; exact hlat⟩
  case status =>
    obtain ⟨hmem, hstatus, hrest⟩ := h
    exact ⟨hmem, statusGood_statusClear v hstatus, hrest⟩
  case envSlen =>
    obtain ⟨hruns, hidle, hcursor, hlen, _⟩ := envGood_of_inv h
    refine inv_setEnv ⟨hruns, hidle, hcursor, hlen, ?_⟩ h
    simp only []
    split
    · exact Nat.le_refl _
    · next hle => exact BitVec.not_lt.1 hle
  all_goals exact h

theorem inv_writeLoc {s : State} {lat : Nat} (hlat : 1 ≤ lat) (v : Word) (l : Loc) (h : State.Inv s) :
    State.Inv (writeLoc lat v s l) := by
  cases l with
  | reg r => exact inv_writeReg hlat v r h
  | krom k i => exact h
  | unmapped => exact h
  | elem w i =>
    have hmem := memoryGood_writeLoc lat v s (.elem w i) h.1
    cases w
    case out => exact h
    case smp =>
      simp only [writeLoc, writeElem] at hmem ⊢
      split
      · next hi => rw [if_pos hi] at hmem; exact ⟨hmem, h.2⟩
      · exact h
    all_goals exact ⟨hmem, h.2⟩

theorem one_le_busLatency (op : BusOp) (s : State) : 1 ≤ busLatency op s := by
  cases op
  case write addr v => exact Nat.le_add_right _ _
  all_goals exact Nat.le_refl _

theorem inv_busCycle {s t : State} {lat : Nat} (hlat : 1 ≤ lat) (op : BusOp) (h : State.Inv s)
    (hbus : busCycle lat op s = .ok t) : State.Inv t := by
  cases op with
  | idle => cases hbus; exact h
  | read addr =>
    rcases busRead_cases addr s with ⟨_, heq⟩ | ⟨_, _, heq⟩
    · cases heq.symm.trans hbus; exact h
    · cases heq.symm.trans hbus
  | write addr v =>
    cases hbus
    rcases busWrite_cases lat addr v s with ⟨_, heq⟩ | ⟨_, heq⟩ <;> rw [heq]
    · exact inv_writeLoc hlat v _ h
    · exact h

/-- The end of a cycle: a command loses one of its cycles but the last, or is performed or refused (70_reset R590). -/
theorem inv_clockCommand {s t : State} (h : State.Inv s) (hclock : clockCommand s = .next t) : State.Inv t := by
  have hdone : State.Inv { s with pending := none } := by
    obtain ⟨hmem, hstatus, hengine, hrrc, henv, _⟩ := h
    exact ⟨hmem, hstatus, hengine, hrrc, henv, nofun⟩
  rcases clockCommand_cases s with ⟨_, heq⟩ | ⟨w, n, _, hn, heq⟩ | ⟨w, n, i, _, _, _, heq⟩ | ⟨w, n, e, _, _, _, heq⟩
  · cases heq.symm.trans hclock; exact h
  · cases heq.symm.trans hclock
    obtain ⟨hmem, hstatus, hengine, hrrc, henv, _⟩ := h
    refine ⟨hmem, hstatus, hengine, hrrc, henv, fun p hp => ?_⟩
    cases hp
    exact Nat.le_sub_one_of_lt hn
  · exact inv_exec i hdone (heq.symm.trans hclock)
  · cases heq.symm.trans hclock
    exact inv_raiseError _ _ hdone

/-- Settles O55: a step is a power-on reset, or a bus transaction and then the clock, and each keeps the invariant. -/
theorem everyStepKeepsTheInvariant : Obligations.EveryStepKeepsTheInvariant := by
  intro s s' h hstep
  have htake : State.Inv (takeCycle s) := h
  rcases step_cases s with ⟨_, heq⟩ | ⟨f, _, _, heq⟩ | ⟨t, _, hbus, heq⟩
  · cases heq.symm.trans hstep
    exact inv_powerOnReset _
  · cases heq.symm.trans hstep
  · exact inv_clockCommand (inv_busCycle (one_le_busLatency _ _) _ htake hbus) (heq.symm.trans hstep)

end Sys2Proof.Machine
end

section
/-! PROOFS. O59: which registers a command may write (10_state R54, R84, R85, 43 R502), from one frame for each command
that names the fields it can change. -/

namespace Sys2Proof.Machine

/-! ### Shared operations -/

/-- An initialisation writes the engine, the negotiation and OUT alone (40 R261, R262). -/
theorem engineInit_frame (up down n klen : Nat) (s : State) :
    ∃ e c m, engineInit up down n klen s = .ok { s with rse := e, rrc := c, mem := m } ∨
      engineInit up down n klen s = .error { s with rse := e, rrc := c, mem := m } := by
  rcases engineInit_cases up down n klen s with ⟨_, _, _, _, _, _, hc⟩ | ⟨_, _, _, _, _, hc⟩ | hc
  · exact ⟨_, _, _, .inl hc⟩
  · exact ⟨_, _, _, .inl hc⟩
  · exact ⟨_, _, _, .inr hc⟩

/-- `RRC_SETUP` writes STATUS, the engine, the RRC registers and memory, and takes draws (41 R351). -/
theorem rrcSetup_frame (upW downW : Word) (n : Nat) (s : State) :
    ∃ st e c m q, rrcSetup upW downW n s = .ok { s with status := st, rse := e, rrc := c, mem := m, draws := q } ∨
      rrcSetup upW downW n s = .error { s with status := st, rse := e, rrc := c, mem := m, draws := q } := by
  rcases rrcSetup_cases upW downW n s with ⟨t, hinit, heq⟩ | ⟨t, hinit, heq⟩
  · obtain ⟨e, c, m, h | h⟩ := engineInit_frame (clampFactor (operandS32 upW)) (clampFactor (operandS32 downW)) n
      (selectedKernel s.inst s.draws (clampFactor (operandS32 upW)) (clampFactor (operandS32 downW))).length
      (rrcPrepare upW downW s)
    · cases h.symm.trans hinit
      exact ⟨_, _, _, _, _, .inl heq⟩
    · cases h.symm.trans hinit
  · rw [engineInit_error hinit] at heq
    exact ⟨_, _, _, _, _, .inr heq⟩

/-- Playing moves only the playing registers of ENV (42 R442, R443). -/
theorem envParams_playPath (n : Nat) (s : State) : envParams (playPath n s).env = envParams s.env := by
  unfold playPath
  split
  · exact envParams_envSamples n s
  · exact envParams_envSamples (rrcDue s) (rrcAdvance s)

/-- What a play writes, with the frame of ENV (42 R440 to R444). -/
theorem playPath_frame_env (n : Nat) (s : State) :
    ∃ st e c v m q, envParams v = envParams s.env ∧
      playPath n s = { s with status := st, rse := e, rrc := c, env := v, mem := m, draws := q } := by
  obtain ⟨v, e, c, st, m, q, h⟩ := playPath_frame n s
  exact ⟨st, e, c, v, m, q, by rw [← envParams_playPath n s, h], h⟩

/-! ### Commands -/

theorem exec_rseInit_frame (s : State) :
    ∃ st e c m, exec .rseInit s = .next { s with status := st, rse := e, rrc := c, mem := m } := by
  rcases exec_rseInit_cases s with ⟨t, hok, heq⟩ | ⟨_, heq⟩
  · obtain ⟨e, c, m, h | h⟩ := engineInit_frame (operandU32 s.arg.a0) (operandU32 s.arg.a1) (operandU32 s.arg.a2)
      (operandU32 s.arg.a3) s
    · cases h.symm.trans hok
      exact ⟨s.status, e, c, m, heq⟩
    · cases h.symm.trans hok
  · exact ⟨_, _, _, s.mem, heq⟩

theorem exec_rseApply_frame (s : State) :
    ∃ st e m q, exec .rseApply s = .next { s with status := st, rse := e, mem := m, draws := q } := by
  rcases exec_rseApply_cases s with ⟨_, heq⟩ | ⟨_, _, heq⟩ | ⟨_, _, _, heq⟩ | ⟨_, _, _, heq⟩
  · exact ⟨_, s.rse, s.mem, s.draws, heq⟩
  · exact ⟨_, s.rse, s.mem, s.draws, heq⟩
  · exact ⟨_, _, _, _, heq⟩
  · exact ⟨_, _, _, _, heq⟩

theorem exec_rseLenin_frame (s : State) : ∃ st r, exec .rseLenin s = .next { s with status := st, res := r } := by
  rcases exec_rseLenin_cases s _ rfl with ⟨_, heq⟩ | ⟨_, _, heq⟩ | ⟨_, _, heq⟩
  · exact ⟨_, s.res, heq⟩
  · exact ⟨_, s.res, heq⟩
  · exact ⟨s.status, _, heq⟩

theorem exec_rseLenout_frame (s : State) : ∃ st r, exec .rseLenout s = .next { s with status := st, res := r } := by
  rcases exec_rseLenout_cases s _ rfl with ⟨_, heq⟩ | ⟨_, _, heq⟩ | ⟨_, _, heq⟩
  · exact ⟨_, s.res, heq⟩
  · exact ⟨_, s.res, heq⟩
  · exact ⟨s.status, _, heq⟩

theorem exec_rrcConfig_frame (s : State) :
    ∃ st e c m q, exec .rrcConfig s = .next { s with status := st, rse := e, rrc := c, mem := m, draws := q } := by
  obtain ⟨st, e, c, m, q, h⟩ := rrcSetup_frame s.arg.a0 s.arg.a1 (operandU32 s.arg.a2) s
  rcases exec_rrcConfig_cases s with ⟨t, hsetup, heq⟩ | ⟨t, hsetup, heq⟩ <;>
    rcases h with h | h <;> cases h.symm.trans hsetup
  · exact ⟨_, _, _, _, _, heq⟩
  · exact ⟨_, _, _, _, _, heq⟩

theorem exec_rrcNext_frame (s : State) :
    ∃ st r c, exec .rrcNext s = .next { s with status := st, res := r, rrc := c } := by
  rcases exec_rrcNext_cases s with ⟨_, heq⟩ | ⟨_, heq⟩
  · exact ⟨_, s.res, s.rrc, heq⟩
  · exact ⟨s.status, _, _, heq⟩

theorem exec_envOff_frame (s : State) :
    ∃ v, envParams v = envParams s.env ∧ exec .envOff s = .next { s with env := v } := by
  rcases exec_envOff_cases s with ⟨_, heq⟩ | ⟨_, heq⟩
  · exact ⟨s.env, rfl, heq⟩
  · refine ⟨_, ?_, heq⟩
    split
    · exact envParams_envFinish s.env
    · exact envParams_envEnter .fadeout s.env

/-- ENV_PLAY leaves the operands, the results and the parameters of ENV (42 R440 to R444). -/
theorem exec_envPlay_frame (s : State) :
    ∃ st e c v m q, envParams v = envParams s.env ∧
      exec .envPlay s = .next { s with status := st, rse := e, rrc := c, env := v, mem := m, draws := q } := by
  obtain ⟨st, e, c, m, q, h⟩ := rrcSetup_frame s.rrc.upreq s.rrc.downreq (operandU32 s.arg.a0) s
  rcases exec_envPlay_cases s _ rfl with ⟨_, heq⟩ | ⟨_, _, heq⟩ | ⟨_, _, _, heq⟩ | ⟨_, _, _, _, hsetup⟩ |
    ⟨_, _, _, _, _, heq⟩
  · exact ⟨_, s.rse, s.rrc, s.env, s.mem, s.draws, rfl, heq⟩
  · exact ⟨s.status, s.rse, s.rrc, _, s.mem, s.draws, envParams_envFinish s.env, heq⟩
  · exact ⟨s.status, s.rse, s.rrc, s.env, s.mem, s.draws, rfl, heq⟩
  · rcases hsetup with ⟨t, hsetup, heq⟩ | ⟨t, hsetup, heq⟩ <;> rcases h with h | h <;> cases h.symm.trans hsetup
    · obtain ⟨st', e', c', v', m', q', hv, hplay⟩ := playPath_frame_env (operandU32 s.arg.a0)
        { s with status := st, rse := e, rrc := c, mem := m, draws := q }
      exact ⟨st', e', c', v', m', q', hv, by rw [heq, hplay]⟩
    · exact ⟨_, e, c, s.env, m, q, rfl, heq⟩
  · obtain ⟨st', e', c', v', m', q', hv, hplay⟩ := playPath_frame_env (operandU32 s.arg.a0) s
    exact ⟨st', e', c', v', m', q', hv, by rw [heq, hplay]⟩

/-- Settles O59: each command's frame names the fields it can change; the others are the same. -/
theorem commandsWriteOnlyTheirRegisters : Obligations.CommandsWriteOnlyTheirRegisters := by
  intro i s t hexec
  cases i
  case rseInit =>
    obtain ⟨st, e, c, m, heq⟩ := exec_rseInit_frame s
    cases heq.symm.trans hexec
    simp
  case rseApply =>
    obtain ⟨st, e, m, q, heq⟩ := exec_rseApply_frame s
    cases heq.symm.trans hexec
    simp
  case rseLenin =>
    obtain ⟨st, r, heq⟩ := exec_rseLenin_frame s
    cases heq.symm.trans hexec
    simp [Spec.writesRes]
  case rseLenout =>
    obtain ⟨st, r, heq⟩ := exec_rseLenout_frame s
    cases heq.symm.trans hexec
    simp [Spec.writesRes]
  case rrcConfig =>
    obtain ⟨st, e, c, m, q, heq⟩ := exec_rrcConfig_frame s
    cases heq.symm.trans hexec
    simp
  case rrcNext =>
    obtain ⟨st, r, c, heq⟩ := exec_rrcNext_frame s
    cases heq.symm.trans hexec
    simp [Spec.writesRes]
  case envOff =>
    obtain ⟨v, hv, heq⟩ := exec_envOff_frame s
    obtain ⟨hhost, hpending, hlatched⟩ := (envParams_eq_iff _ _).1 hv
    cases heq.symm.trans hexec
    simp [hhost, hpending, hlatched]
  case envPlay =>
    obtain ⟨st, e, c, v, m, q, hv, heq⟩ := exec_envPlay_frame s
    obtain ⟨hhost, hpending, hlatched⟩ := (envParams_eq_iff _ _).1 hv
    cases heq.symm.trans hexec
    simp [hhost, hpending, hlatched]
  case envOn =>
    cases hexec
    simp [envLatch]
  case nop | srst | rseDeinit | rseIsbyp | rseGcd | envSetadsr | envSetfade | envRemain =>
    cases hexec
    simp [Spec.writesRes]

end Sys2Proof.Machine
end

section
/-! SUPPORT. The registers on the bus: where the address decode finds them (10_state R90), what a host write to one of
them does in an idle cycle, and the bits of STATUS (R53). -/

namespace Sys2Proof.Machine

/-! ### Address decode and the idle cycle -/

/-- A byte offset of the register map names its register, whatever `addr[1:0]` is (R90, 20_memory R156). -/
theorem locate_eq_reg {p : Params} {addr : Word} {r : Reg} {k : Nat} (hk : addr.toNat / 4 = k)
    (hmap : 4 * k < 0x1000 ∧ registerMap.lookup (4 * k) = some r) : locate p addr = .reg r := by
  obtain ⟨hlt, hr⟩ := hmap
  subst hk
  unfold locate
  simp only [if_pos hlt, hr]

/-- With no command in flight a host write stores to its location, and then the clock runs (R52, 70_reset R590). -/
theorem step_write_of_idle {s : State} {addr v : Word} (hidle : idle s) (hhost : nextCycle s = ⟨false, .write addr v⟩) :
    step s = clockCommand (writeLoc (latency v (takeCycle s)) v (takeCycle s) (locate s.inst addr)) := by
  have hbus : busWrite (latency v (takeCycle s)) addr v (takeCycle s) =
      writeLoc (latency v (takeCycle s)) v (takeCycle s) (locate s.inst addr) := by
    rcases busWrite_cases (latency v (takeCycle s)) addr v (takeCycle s) with ⟨_, heq⟩ | ⟨hbusy, _⟩
    · exact heq
    · exact absurd hidle hbusy
  unfold step runCycle
  rw [hhost]
  simp only [Bool.false_eq_true, if_false, busCycle, busLatency, hbus]

/-- A write to a register other than CMD starts no command, so it is the whole of an idle block's cycle (R52). -/
theorem step_writeReg {s : State} {addr v : Word} {r : Reg} (hidle : idle s)
    (hhost : nextCycle s = ⟨false, .write addr v⟩) (hloc : locate s.inst addr = .reg r) (hcmd : r ≠ .cmd) :
    step s = .next (writeReg (latency v (takeCycle s)) v (takeCycle s) r) := by
  have hpending : (writeReg (latency v (takeCycle s)) v (takeCycle s) r).pending = none :=
    (writeReg_pending _ _ _ _ hcmd).trans hidle
  rw [step_write_of_idle hidle hhost, hloc]
  simp only [writeLoc, clockCommand, hpending]

/-! ### The bits of STATUS -/

/-- The bits of STATUS: the flags at 6:0, ERRCODE at 15:8, ERROPC at 23:16, and 0 elsewhere (R53). -/
theorem getLsbD_statusWord (busy : Bool) (st : Status) (i : Nat) :
    (statusWord busy st).getLsbD i =
      if i < 8 then [busy, st.err, st.errmult, st.unr, st.ovr, st.clamp, st.coll].getD i false
      else if i < 16 then st.errcode.getLsbD (i - 8)
      else st.erropc.getLsbD (i - 16) := by
  unfold statusWord
  simp only [BitVec.getLsbD_append, BitVec.getLsbD_ofBool]
  rcases Nat.lt_or_ge i 8 with h8 | h8
  · rw [if_pos h8]
    interval_cases i <;> simp
  rw [if_neg (Nat.not_lt.2 h8)]
  obtain ⟨j, rfl⟩ := Nat.exists_eq_add_of_le h8
  iterate 8 rw [if_neg (by omega)]
  by_cases h16 : j < 8
  · rw [if_pos (by omega), if_pos (by omega)]
    congr 1
  rw [if_neg (by omega)]
  by_cases h24 : j < 16
  · rw [if_pos (by omega), if_neg (by omega)]
    congr 1
  · rw [if_neg (by omega), if_neg (by omega), BitVec.getLsbD_of_ge st.erropc _ (by omega)]
    exact BitVec.getLsbD_zero

/-- The bits that a write to STATUS can clear are 6:1 (R53). -/
theorem getLsbD_clearable : ∀ i < 32, (0x7E : Word).getLsbD i = decide (1 ≤ i ∧ i < 7) := by decide

/-- The bits of ERRCODE and ERROPC are 23:8 (R53). -/
theorem getLsbD_recordMask :
    ∀ (c : Bool), ∀ i < 32,
      (if c then 0xFF0000FF else 0xFFFFFFFF : Word).getLsbD i = !(c && decide (8 ≤ i ∧ i < 24)) := by
  decide

/-- What a host write of `w` to STATUS leaves of the word: the bits 6:1 that `w` has set are cleared, and with bit 1
also ERRCODE and ERROPC (R53). -/
theorem statusWord_statusClear (st : Status) (w : Word) :
    statusWord false (statusClear st w) =
      (statusWord false st &&& ~~~(w &&& 0x7E)) &&& (if w.getLsbD 1 then 0xFF0000FF else 0xFFFFFFFF) := by
  refine BitVec.eq_of_getLsbD_eq fun i hi => ?_
  rw [BitVec.getLsbD_and, BitVec.getLsbD_and, BitVec.getLsbD_not, BitVec.getLsbD_and, getLsbD_clearable i hi,
    getLsbD_recordMask _ i hi, getLsbD_statusWord, getLsbD_statusWord]
  rcases Nat.lt_or_ge i 8 with h8 | h8
  · interval_cases i <;> simp [statusClear]
  · have hflag : decide (1 ≤ i ∧ i < 7) = false := decide_eq_false (by omega)
    rw [if_neg (Nat.not_lt.2 h8), if_neg (Nat.not_lt.2 h8), hflag]
    rcases Nat.lt_or_ge i 24 with h24 | h24
    · cases hw : w.getLsbD 1 <;> simp only [statusClear, hw] <;> simp [hi, h8, h24]
    · have hzero : ∀ opc : Byte, opc.getLsbD (i - 16) = false := fun opc => BitVec.getLsbD_of_ge _ _ (by omega)
      simp [hzero, show ¬ i < 16 by omega]

/-! ### ENV_CTRL and ENV_SLEN -/

/-- ENV_CTRL reads the three bits of the word written to it (R80). -/
theorem envCtrl_word (v : Word) :
    (0 : BitVec 29) ++ BitVec.ofBool (v.getLsbD 2) ++ BitVec.ofBool (v.getLsbD 1) ++ BitVec.ofBool (v.getLsbD 0) =
      v &&& 7 := by
  have h7 : ∀ i < 32, (7 : Word).getLsbD i = decide (i < 3) := by decide
  refine BitVec.eq_of_getLsbD_eq fun i hi => ?_
  rw [BitVec.getLsbD_and, h7 i hi]
  simp only [BitVec.getLsbD_append, BitVec.getLsbD_ofBool]
  rcases Nat.lt_or_ge i 3 with h3 | h3
  · interval_cases i <;> simp
  · iterate 3 rw [if_neg (by omega)]
    rw [decide_eq_false (Nat.not_lt.2 h3), Bool.and_false]
    exact BitVec.getLsbD_zero

/-- ENV_SLEN keeps the smaller of the word written and CAP_SMP (R82). -/
theorem toNat_ite_lt (cap v : Word) : (if cap < v then cap else v).toNat = Nat.min v.toNat cap.toNat := by
  split
  · next h => exact (Nat.min_eq_right (BitVec.lt_def.1 h).le).symm
  · next h => exact (Nat.min_eq_left (BitVec.not_lt.1 h)).symm

end Sys2Proof.Machine
end

section
/-! PROOFS. O8, O11, O12, O15: the registers the host reads and writes, and their reset values. -/

namespace Sys2Proof.Machine

/-- Settles O8: a field is its bits of the word, and a write to STATUS is the whole of its cycle. -/
theorem statusFieldsAndWriteOneToClear : Obligations.StatusFieldsAndWriteOneToClear := by
  refine ⟨fun busy st => ?fields, fun s addr w hidle hk hhost => ?write⟩
  case fields =>
    refine ⟨?_, ?_, ?_, ?_, ?_, ?_, ?_, ?_, ?errcode, ?erropc, ?reserved⟩
    case errcode =>
      refine BitVec.eq_of_getLsbD_eq fun i hi => ?_
      rw [BitVec.getLsbD_extractLsb', getLsbD_statusWord]
      simp [hi, show 8 + i < 16 by omega]
    case erropc =>
      refine BitVec.eq_of_getLsbD_eq fun i hi => ?_
      rw [BitVec.getLsbD_extractLsb', getLsbD_statusWord]
      simp [hi, show ¬ 16 + i < 8 by omega]
    case reserved =>
      refine BitVec.eq_of_getLsbD_eq fun i hi => ?_
      rw [BitVec.getLsbD_extractLsb', getLsbD_statusWord, if_neg (by omega), if_neg (by omega),
        BitVec.getLsbD_of_ge _ _ (by omega), Bool.and_false]
      exact BitVec.getLsbD_zero.symm
    all_goals rw [getLsbD_statusWord]; rfl
  case write =>
    refine ⟨_, step_writeReg hidle hhost (locate_eq_reg (r := .status) hk (by decide)) (by decide), rfl, ?_⟩
    simp only [readReg, writeReg, ackStatus_pending, ackStatus_status, takeCycle_pending, takeCycle_status, hidle,
      Option.isSome_none]
    exact statusWord_statusClear s.status w

/-- Settles O15: SRST gives the registers of a power-on reset, STATUS too since no command is in flight. -/
theorem registersHoldTheirResetValues : Obligations.RegistersHoldTheirResetValues := by
  have hreset : ∀ (p : Params) (r : Reg), readReg (State.resetOf p) r = Spec.resetValue p r := by
    intro p r
    cases r
    case status => exact (by decide : statusWord false Status.zero = 0)
    case rseStat => exact (by decide : (0 : BitVec 29) ++ BitVec.ofBool false ++ modeCode .uninit = 0)
    case rrcStat => exact (by decide : (0 : BitVec 28) ++ (0 : BitVec 2) ++ BitVec.ofBool false ++ BitVec.ofBool false = 0)
    case envCtrl =>
      exact (by decide : (0 : BitVec 29) ++ BitVec.ofBool false ++ BitVec.ofBool false ++ BitVec.ofBool false = 0)
    case envState => exact (by decide : (0 : BitVec 29) ++ phaseCode .finished = 6)
    all_goals rfl
  have hsrst : ∀ (s : State) (r : Reg), idle s → readReg (resetRegisters s) r = readReg (State.resetOf s.inst) r := by
    intro s r hidle
    cases r
    case status => simp only [readReg, resetRegisters_pending, resetRegisters_status, hidle]; rfl
    all_goals rfl
  exact ⟨hreset, fun _ => ⟨rfl, rfl, rfl⟩,
    fun s hidle => ⟨resetRegisters s, rfl, fun r => (hsrst s r hidle).trans (hreset s.inst r), rfl, rfl, rfl⟩⟩

/-- Settles O11: each offset is in the register map beside its register, which has one constant and no write. -/
theorem idVersionAndCapacitiesRead : Obligations.IdVersionAndCapacitiesRead := by
  intro s r addr v hmem
  simp only [List.mem_cons, List.not_mem_nil, or_false, Prod.mk.injEq] at hmem
  rcases hmem with ⟨rfl, rfl, rfl⟩ | ⟨rfl, rfl, rfl⟩ | ⟨rfl, rfl, rfl⟩ | ⟨rfl, rfl, rfl⟩ | ⟨rfl, rfl, rfl⟩ |
    ⟨rfl, rfl, rfl⟩ | ⟨rfl, rfl, rfl⟩ | ⟨rfl, rfl, rfl⟩
  all_goals exact ⟨locate_eq_reg rfl ⟨by decide, rfl⟩, rfl, fun _ _ => rfl⟩

/-- Settles O12: each offset is in the register map, and the write to its register is the whole of the cycle. -/
theorem hostRegistersKeepWhatIsWritten : Obligations.HostRegistersKeepWhatIsWritten := by
  intro s addr v hidle hhost
  have hstep : ∀ {r : Reg} {k : Nat}, addr.toNat / 4 = k → (4 * k < 0x1000 ∧ registerMap.lookup (4 * k) = some r) →
      r ≠ .cmd → step s = .next (writeReg (latency v (takeCycle s)) v (takeCycle s) r) :=
    fun hk hmap hcmd => step_writeReg hidle hhost (locate_eq_reg hk hmap) hcmd
  refine ⟨fun hk => hstep (r := .arg0) hk (by decide) (by decide),
    fun hk => hstep (r := .arg1) hk (by decide) (by decide),
    fun hk => hstep (r := .arg2) hk (by decide) (by decide),
    fun hk => hstep (r := .arg3) hk (by decide) (by decide),
    fun hk => ?envCtrl, fun hk => hstep (r := .envFs) hk (by decide) (by decide),
    fun hk => ?envSlen⟩
  case envCtrl => exact ⟨_, hstep (r := .envCtrl) hk (by decide) (by decide), rfl, rfl, rfl, rfl, envCtrl_word v⟩
  case envSlen =>
    refine ⟨_, hstep (r := .envSlen) hk (by decide) (by decide), rfl, ?_⟩
    exact toNat_ite_lt s.inst.capSmp v

end Sys2Proof.Machine
end

section
/-! SUPPORT. The address map (20_memory R151, R153, R161, R163): the range of each window, that the ranges lie apart,
and exactly which byte offsets the address decode gives to a register, a window element or a KROM tap. -/

namespace Sys2Proof.Machine

/-! ### Ranges of the windows -/

/-- The number of elements that the range of a window in the address map has room for (R151, R161). -/
def windowSpan : Window → Nat
  | .kmem => 0x400
  | .inp  => 0x1000
  | .out  => 0x1000
  | .dst  => 0x1000
  | .smp  => 0x1000000

/-- Legal parameters make no window deeper than its range (00_scope R9, 20_memory R163). -/
theorem windowDepth_le_span {p : Params} (hp : p.legal = true) (w : Window) : windowDepth p w ≤ windowSpan w := by
  have hrange := window_ranges p hp w
  cases w <;> simp only [windowBase, windowSpan] at hrange ⊢ <;> omega

/-- The ranges of two windows lie apart (R163). -/
theorem windowSpan_apart {w w' : Window} (hw : w ≠ w') :
    windowBase w + 4 * windowSpan w ≤ windowBase w' ∨ windowBase w' + 4 * windowSpan w' ≤ windowBase w := by
  revert hw
  cases w <;> cases w' <;> decide

/-- Window elements are word-aligned. -/
theorem elemAddr_eq_four_mul (w : Window) (i : Nat) : elemAddr w i = 4 * (windowBase w / 4 + i) := by
  have hbase : windowBase w = 4 * (windowBase w / 4) := by cases w <;> rfl
  unfold elemAddr
  omega

/-- Every element within a window's range lies above the registers, outside the range of KROM, and below the end of
the map (R151). -/
theorem elemAddr_range {w : Window} {i : Nat} (hi : i < windowSpan w) :
    0x1000 ≤ elemAddr w i ∧ (elemAddr w i < 0x2000 ∨ 0x4000 ≤ elemAddr w i) ∧ elemAddr w i < 0x4010000 := by
  unfold elemAddr
  cases w <;> simp only [windowBase, windowSpan] at hi ⊢ <;> omega

/-- The four bytes of one element and those of another lie apart. -/
theorem elemAddr_apart {w w' : Window} {i j : Nat} (hi : i < windowSpan w) (hj : j < windowSpan w')
    (hne : ¬(w' = w ∧ j = i)) : elemAddr w i + 4 ≤ elemAddr w' j ∨ elemAddr w' j + 4 ≤ elemAddr w i := by
  unfold elemAddr
  by_cases hw : w = w'
  · subst hw
    have : j ≠ i := fun h => hne ⟨rfl, h⟩
    omega
  · have := windowSpan_apart hw
    omega

/-- An element's address determines its window and its index. -/
theorem elemAddr_inj {w w' : Window} {i j : Nat} (hi : i < windowSpan w) (hj : j < windowSpan w')
    (h : elemAddr w i = elemAddr w' j) : w' = w ∧ j = i := by
  by_contra hne
  have := elemAddr_apart hi hj hne
  omega

/-! ### Address decode -/

theorem locElem_eq_elem_iff (p : Params) (w w' : Window) (i j : Nat) :
    locElem p w' j = .elem w i ↔ w' = w ∧ j = i ∧ i < windowDepth p w := by
  unfold locElem
  split
  · next hj =>
    rw [Loc.elem.injEq]
    exact ⟨fun ⟨hw, hi⟩ => ⟨hw, hi, hw ▸ hi ▸ hj⟩, fun ⟨hw, hi, _⟩ => ⟨hw, hi⟩⟩
  · next hj =>
    refine ⟨nofun, fun ⟨hw, hi, hlt⟩ => absurd ?_ hj⟩
    rw [hw, hi]
    exact hlt

theorem locKrom_eq_krom_iff (k k' i j : Nat) : locKrom k' j = .krom k i ↔ k' = k ∧ j = i ∧ i < 41 + 20 * k := by
  unfold locKrom
  split
  · next hj =>
    rw [Loc.krom.injEq]
    omega
  · exact ⟨nofun, fun ⟨_, _, _⟩ => by omega⟩

theorem locElem_eq_or (p : Params) (w : Window) (i : Nat) :
    locElem p w i = .elem w i ∨ locElem p w i = .unmapped := by
  unfold locElem
  split
  · exact .inl rfl
  · exact .inr rfl

theorem locKrom_eq_or (k i : Nat) : locKrom k i = .krom k i ∨ locKrom k i = .unmapped := by
  unfold locKrom
  split
  · exact .inl rfl
  · exact .inr rfl

/-- The ranges of the address map (R151, R153, R161): the registers, a window, a kernel table, or nothing. -/
theorem locate_cases (p : Params) (addr : Word) :
    (4 * (addr.toNat / 4) < 0x1000 ∧
      ((∃ r, registerMap.lookup (4 * (addr.toNat / 4)) = some r ∧ locate p addr = .reg r) ∨
        (registerMap.lookup (4 * (addr.toNat / 4)) = none ∧ locate p addr = .unmapped))) ∨
    (∃ w i, i < windowSpan w ∧ 4 * (addr.toNat / 4) = elemAddr w i ∧ locate p addr = locElem p w i) ∨
    (∃ k i, k < 3 ∧ i < 0x80 ∧ 4 * (addr.toNat / 4) = 0x2000 + 0x200 * k + 4 * i ∧ locate p addr = locKrom k i) ∨
    ((0x2600 ≤ 4 * (addr.toNat / 4) ∧ 4 * (addr.toNat / 4) < 0x4000 ∨ 0x4010000 ≤ 4 * (addr.toNat / 4)) ∧
      locate p addr = .unmapped) := by
  have haligned : 4 * (addr.toNat / 4) % 4 = 0 := Nat.mul_mod_right ..
  generalize hloc : locate p addr = l
  unfold locate at hloc
  generalize 4 * (addr.toNat / 4) = a at haligned hloc ⊢
  dsimp only at hloc
  have helem : ∀ w : Window, windowBase w ≤ a → a < windowBase w + 4 * windowSpan w →
      locElem p w ((a - windowBase w) / 4) = l → ∃ w i, i < windowSpan w ∧ a = elemAddr w i ∧ l = locElem p w i := by
    intro w hle hlt hl
    have hbase := elemAddr_eq_four_mul w 0
    unfold elemAddr at *
    exact ⟨w, _, by omega, by omega, hl.symm⟩
  have hkrom : ∀ k : Nat, k < 3 → 0x2000 + 0x200 * k ≤ a → a < 0x2200 + 0x200 * k →
      locKrom k ((a - (0x2000 + 0x200 * k)) / 4) = l →
      ∃ k i, k < 3 ∧ i < 0x80 ∧ a = 0x2000 + 0x200 * k + 4 * i ∧ l = locKrom k i :=
    fun k hk hle hlt hl => ⟨k, _, hk, by omega, by omega, hl.symm⟩
  by_cases hreg : a < 0x1000
  · rw [if_pos hreg] at hloc
    refine .inl ⟨hreg, ?_⟩
    cases hr : registerMap.lookup a with
    | some r => exact .inl ⟨r, rfl, by rw [← hloc, hr]⟩
    | none => exact .inr ⟨rfl, by rw [← hloc, hr]⟩
  rw [if_neg hreg] at hloc
  by_cases hkmem : a < 0x2000
  · rw [if_pos hkmem] at hloc
    exact .inr (.inl (helem .kmem (Nat.le_of_not_lt hreg) hkmem hloc))
  rw [if_neg hkmem] at hloc
  by_cases hrom0 : a < 0x2200
  · rw [if_pos hrom0] at hloc
    exact .inr (.inr (.inl (hkrom 0 (by decide) (Nat.le_of_not_lt hkmem) hrom0 hloc)))
  rw [if_neg hrom0] at hloc
  by_cases hrom1 : a < 0x2400
  · rw [if_pos hrom1] at hloc
    exact .inr (.inr (.inl (hkrom 1 (by decide) (Nat.le_of_not_lt hrom0) hrom1 hloc)))
  rw [if_neg hrom1] at hloc
  by_cases hrom2 : a < 0x2600
  · rw [if_pos hrom2] at hloc
    exact .inr (.inr (.inl (hkrom 2 (by decide) (Nat.le_of_not_lt hrom1) hrom2 hloc)))
  rw [if_neg hrom2] at hloc
  by_cases hgap : a < 0x4000
  · rw [if_pos hgap] at hloc
    exact .inr (.inr (.inr ⟨.inl ⟨Nat.le_of_not_lt hrom2, hgap⟩, hloc.symm⟩))
  rw [if_neg hgap] at hloc
  by_cases hinp : a < 0x8000
  · rw [if_pos hinp] at hloc
    exact .inr (.inl (helem .inp (Nat.le_of_not_lt hgap) hinp hloc))
  rw [if_neg hinp] at hloc
  by_cases hout : a < 0xC000
  · rw [if_pos hout] at hloc
    exact .inr (.inl (helem .out (Nat.le_of_not_lt hinp) hout hloc))
  rw [if_neg hout] at hloc
  by_cases hdst : a < 0x10000
  · rw [if_pos hdst] at hloc
    exact .inr (.inl (helem .dst (Nat.le_of_not_lt hout) hdst hloc))
  rw [if_neg hdst] at hloc
  by_cases hsmp : a < 0x4010000
  · rw [if_pos hsmp] at hloc
    exact .inr (.inl (helem .smp (Nat.le_of_not_lt hdst) hsmp hloc))
  rw [if_neg hsmp] at hloc
  exact .inr (.inr (.inr ⟨.inr (Nat.le_of_not_lt hsmp), hloc.symm⟩))

/-- The register map is a function of the offset, and all its offsets are in the range of the registers (R90). -/
theorem registerMap_lookup : ∀ q ∈ registerMap, q.1 < 0x1000 ∧ registerMap.lookup q.1 = some q.2 := by decide

/-- An address names a register exactly when the register map has it at the aligned offset (R90, R156). -/
theorem locate_eq_reg_iff (p : Params) (addr : Word) (r : Reg) :
    locate p addr = .reg r ↔ (4 * (addr.toNat / 4), r) ∈ registerMap := by
  constructor
  · intro h
    rcases locate_cases p addr with ⟨_, ⟨r', hlookup, heq⟩ | ⟨_, heq⟩⟩ | ⟨w, i, _, _, heq⟩ | ⟨k, i, _, _, _, heq⟩ | ⟨_, heq⟩
    · cases heq.symm.trans h
      obtain ⟨l, l', hsplit, _⟩ := List.lookup_eq_some_iff.1 hlookup
      rw [hsplit]
      exact List.mem_append_right _ (List.mem_cons_self ..)
    · cases heq.symm.trans h
    · rcases locElem_eq_or p w i with hloc | hloc <;> cases hloc.symm.trans (heq.symm.trans h)
    · rcases locKrom_eq_or k i with hloc | hloc <;> cases hloc.symm.trans (heq.symm.trans h)
    · cases heq.symm.trans h
  · intro h
    exact locate_eq_reg rfl (registerMap_lookup _ h)

/-- With legal parameters an address names element `i` of a window exactly when `i` is below the depth and the aligned
offset is the element's (R151, R163). -/
theorem locate_eq_elem_iff {p : Params} (hp : p.legal = true) (addr : Word) (w : Window) (i : Nat) :
    locate p addr = .elem w i ↔ i < windowDepth p w ∧ 4 * (addr.toNat / 4) = elemAddr w i := by
  constructor
  · intro h
    rcases locate_cases p addr with ⟨_, ⟨r, _, heq⟩ | ⟨_, heq⟩⟩ | ⟨w', j, _, haddr, heq⟩ | ⟨k, j, _, _, _, heq⟩ | ⟨_, heq⟩
    · cases heq.symm.trans h
    · cases heq.symm.trans h
    · obtain ⟨rfl, rfl, hlt⟩ := (locElem_eq_elem_iff ..).1 (heq.symm.trans h)
      exact ⟨hlt, haddr⟩
    · rcases locKrom_eq_or k j with hloc | hloc <;> cases hloc.symm.trans (heq.symm.trans h)
    · cases heq.symm.trans h
  · rintro ⟨hlt, haddr⟩
    have hspan := hlt.trans_le (windowDepth_le_span hp w)
    obtain ⟨hlow, hkrom, hhigh⟩ := elemAddr_range hspan
    rcases locate_cases p addr with ⟨hreg, _⟩ | ⟨w', j, hj, haddr', heq⟩ | ⟨k, j, _, _, _, _⟩ | ⟨hgap, _⟩
    · omega
    · obtain ⟨rfl, rfl⟩ := elemAddr_inj hspan hj (haddr.symm.trans haddr')
      exact heq.trans ((locElem_eq_elem_iff ..).2 ⟨rfl, rfl, hlt⟩)
    · omega
    · omega

/-- An address names tap `i` of a kernel table exactly when the table has it at the aligned offset (R153). -/
theorem locate_eq_krom_iff (p : Params) (addr : Word) (k i : Nat) :
    locate p addr = .krom k i ↔ k < 3 ∧ i < 41 + 20 * k ∧ 4 * (addr.toNat / 4) = 0x2000 + 0x200 * k + 4 * i := by
  constructor
  · intro h
    rcases locate_cases p addr with ⟨_, ⟨r, _, heq⟩ | ⟨_, heq⟩⟩ | ⟨w, j, _, _, heq⟩ | ⟨k', j, hk, _, haddr, heq⟩ | ⟨_, heq⟩
    · cases heq.symm.trans h
    · cases heq.symm.trans h
    · rcases locElem_eq_or p w j with hloc | hloc <;> cases hloc.symm.trans (heq.symm.trans h)
    · obtain ⟨rfl, rfl, hlt⟩ := (locKrom_eq_krom_iff ..).1 (heq.symm.trans h)
      exact ⟨hk, hlt, haddr⟩
    · cases heq.symm.trans h
  · rintro ⟨hk, hi, haddr⟩
    rcases locate_cases p addr with ⟨hreg, _⟩ | ⟨w, j, hj, haddr', _⟩ | ⟨k', j, _, _, haddr', heq⟩ | ⟨hgap, _⟩
    · omega
    · obtain ⟨hlow, hkrom, hhigh⟩ := elemAddr_range hj
      omega
    · exact heq.trans ((locKrom_eq_krom_iff ..).2 ⟨by omega, by omega, hi⟩)
    · omega

/-! ### What a register reads -/

/-- MODE in bits 1:0 and BYP in bit 2 (R60). -/
theorem readReg_rseStat (s : State) :
    readReg s .rseStat = BitVec.ofNat 32 (Spec.modeNumber s.rse.mode + 4 * s.rse.byp.toNat) := by
  simp only [readReg]
  cases s.rse.mode <;> cases s.rse.byp <;> rfl

/-- VALID in bit 0, BYPSEL in bit 1 and SEL in bits 3:2 (R70). -/
theorem readReg_rrcStat (s : State) :
    readReg s .rrcStat = BitVec.ofNat 32 (s.rrc.valid.toNat + 2 * s.rrc.bypsel.toNat + 4 * s.rrc.sel.toNat) := by
  have hfields : ∀ (sel : BitVec 2) (bypsel valid : Bool),
      (0 : BitVec 28) ++ sel ++ BitVec.ofBool bypsel ++ BitVec.ofBool valid =
        BitVec.ofNat 32 (valid.toNat + 2 * bypsel.toNat + 4 * sel.toNat) := by decide
  exact hfields ..

/-- APPEND, SMPV and DSTV in bits 0, 1 and 2 (R80). -/
theorem readReg_envCtrl (s : State) :
    readReg s .envCtrl = BitVec.ofNat 32 (s.env.append.toNat + 2 * s.env.smpv.toNat + 4 * s.env.dstv.toNat) := by
  have hfields : ∀ dstv smpv append : Bool,
      (0 : BitVec 29) ++ BitVec.ofBool dstv ++ BitVec.ofBool smpv ++ BitVec.ofBool append =
        BitVec.ofNat 32 (append.toNat + 2 * smpv.toNat + 4 * dstv.toNat) := by decide
  exact hfields ..

/-- The codes of ENV_STATE (R83). -/
theorem readReg_envState (s : State) : readReg s .envState = BitVec.ofNat 32 (Spec.phaseNumber s.env.phase) := by
  simp only [readReg]
  cases s.env.phase <;> rfl

/-- The registers written out with what they read are the register map read through `readReg` (R90). -/
theorem registerReads_eq_map (s : State) :
    Spec.registerReads s = registerMap.map fun q => (q.1, readReg s q.2) := by
  unfold Spec.registerReads Spec.blockReads Spec.rseReads Spec.rrcReads Spec.envReads
  rw [← readReg_rseStat, ← readReg_rrcStat, ← readReg_envCtrl, ← readReg_envState]
  rfl

end Sys2Proof.Machine
end

section
/-! PROOFS. O9: the address map and what every register reads. -/

namespace Sys2Proof.Machine

/-- Settles O9: the registers are the register map read through `readReg`, and each kind of location has its exact
range of the address map. -/
theorem addressMapIsExact : Obligations.AddressMapIsExact := by
  refine ⟨fun s addr => ⟨?reads, ?registers⟩, fun p addr hp => ⟨?reg, ?elem, ?krom⟩, ?windows, ?words⟩
  case reads =>
    intro q hq haddr
    rw [registerReads_eq_map] at hq
    obtain ⟨⟨a, r⟩, hmem, rfl⟩ := List.mem_map.1 hq
    have hloc : locate s.inst addr = .reg r := (locate_eq_reg_iff ..).2 (haddr ▸ hmem)
    rw [hloc]
    exact ⟨⟨r, rfl⟩, rfl⟩
  case registers =>
    rintro ⟨r, hloc⟩
    rw [registerReads_eq_map, List.map_map]
    exact List.mem_map.2 ⟨_, (locate_eq_reg_iff ..).1 hloc, rfl⟩
  case reg => exact locate_eq_reg_iff p addr
  case elem => exact locate_eq_elem_iff hp addr
  case krom =>
    intro k i
    rw [locate_eq_krom_iff]
    omega
  case windows => exact fun _ _ => ⟨rfl, rfl, rfl, rfl, rfl, rfl, rfl, rfl, rfl, rfl⟩
  case words => exact fun _ _ => ⟨rfl, rfl, rfl, fun _ => rfl, fun _ => rfl⟩

end Sys2Proof.Machine
end

section
/-! SUPPORT. One host transaction in a cycle (20_memory R162, 70_reset R591): a read that has a result, a read that has
none, and a write that its location ignores. -/

namespace Sys2Proof.Machine

/-- The offsets readable while BUSY is 1 are those of the nine registers (R591, 10_state R90). -/
theorem readableWhileBusy_locate_iff (p : Params) (addr : Word) :
    readableWhileBusy (locate p addr) = true ↔ 4 * (addr.toNat / 4) ∈ Spec.busyReadable := by
  have hlist : Spec.busyReadable = (registerMap.filter fun q => readableWhileBusy (.reg q.2)).map Prod.fst := by decide
  rw [hlist]
  constructor
  · intro h
    cases hloc : locate p addr with
    | reg r =>
      rw [hloc] at h
      exact List.mem_map.2 ⟨_, List.mem_filter.2 ⟨(locate_eq_reg_iff ..).1 hloc, h⟩, rfl⟩
    | _ => rw [hloc] at h; cases h
  · intro h
    obtain ⟨⟨a, r⟩, hmem, rfl⟩ := List.mem_map.1 h
    obtain ⟨hmap, hreadable⟩ := List.mem_filter.1 hmem
    rwa [(locate_eq_reg_iff p addr r).2 hmap]

/-- A read that has a result gives the word at the location, and then the clock runs (R162). -/
theorem step_read {s : State} {addr : Word} (hhost : nextCycle s = ⟨false, .read addr⟩)
    (hresult : idle s ∨ 4 * (addr.toNat / 4) ∈ Spec.busyReadable) :
    step s = clockCommand { s with host := s.host.tail, rdata := readLoc s (locate s.inst addr) } := by
  rw [← readableWhileBusy_locate_iff s.inst] at hresult
  have hbus : busRead addr (takeCycle s) =
      .ok { s with host := s.host.tail, rdata := readLoc s (locate s.inst addr) } := by
    rcases busRead_cases addr (takeCycle s) with ⟨_, heq⟩ | ⟨hbusy, hnone, _⟩
    · exact heq
    · exact absurd hresult (not_or.2 ⟨hbusy, Bool.eq_false_iff.1 hnone⟩)
  unfold step runCycle
  rw [hhost]
  simp only [Bool.false_eq_true, if_false, busCycle, hbus]

/-- While BUSY is 1 a read of any other offset is a fault (R591, log 9). -/
theorem step_read_fault {s : State} {addr : Word} (hhost : nextCycle s = ⟨false, .read addr⟩) (hbusy : ¬idle s)
    (haddr : 4 * (addr.toNat / 4) ∉ Spec.busyReadable) : step s = .fault (.busyRead addr) := by
  rw [← readableWhileBusy_locate_iff s.inst] at haddr
  have hbus : busRead addr (takeCycle s) = .error (.busyRead addr) := by
    rcases busRead_cases addr (takeCycle s) with ⟨hresult, _⟩ | ⟨_, _, heq⟩
    · exact absurd hresult (not_or.2 ⟨hbusy, haddr⟩)
    · exact heq
  unfold step runCycle
  rw [hhost]
  simp only [Bool.false_eq_true, if_false, busCycle, hbus]

/-- With no command in flight the clock does nothing (70_reset R590). -/
theorem clockCommand_of_idle {s : State} (hidle : idle s) : clockCommand s = .next s := by
  unfold clockCommand
  rw [hidle]

/-- Before its last cycle a command in flight only loses one (R590). -/
theorem clockCommand_of_left {s : State} {w : Word} {n : Nat} (hpending : s.pending = some ⟨w, n + 2⟩) :
    clockCommand s = .next { s with pending := some ⟨w, n + 1⟩ } := by
  unfold clockCommand
  rw [hpending]
  rfl

/-- In its last cycle a command in flight is performed (R590). -/
theorem clockCommand_of_last {s : State} {w : Word} (hpending : s.pending = some ⟨w, 1⟩) :
    clockCommand s = performWord w { s with pending := none } := by
  unfold clockCommand
  rw [hpending]
  rfl

/-- With no command in flight a host write that starts none is the whole of the cycle (10_state R52). -/
theorem step_writeLoc {s : State} {addr v : Word} (hidle : idle s) (hhost : nextCycle s = ⟨false, .write addr v⟩) {t : State}
    (hwrite : ∀ lat, writeLoc lat v (takeCycle s) (locate s.inst addr) = t) (hpending : idle t) : step s = .next t := by
  rw [step_write_of_idle hidle hhost, hwrite, clockCommand_of_idle hpending]

/-- The registers that the host cannot write ignore it (10_state R90). -/
theorem writeReg_of_readOnly {r : Reg} (hr : r ∉ [Reg.cmd, .status, .arg0, .arg1, .arg2, .arg3, .envCtrl, .envFs, .envSlen])
    (lat : Nat) (v : Word) (s : State) : writeReg lat v s r = s := by
  cases r
  case cmd | status | arg0 | arg1 | arg2 | arg3 | envCtrl | envFs | envSlen => exact absurd (by decide) hr
  all_goals rfl

end Sys2Proof.Machine
end

section
/-! PROOFS. O7, O10: reads change nothing but the word returned, and writes to read-only and unmapped places change
nothing. -/

namespace Sys2Proof.Machine

/-- Settles O7: a read that has a result leaves the clock of the command in flight to run; any other is a fault. -/
theorem readsHaveNoSideEffect : Obligations.ReadsHaveNoSideEffect := by
  intro s addr hhost
  refine ⟨fun hidle => ?idle, fun w n hpending haddr => ?busy, fun w hpending haddr => ?last, fun p hpending haddr => ?fault⟩
  case idle => exact (step_read hhost (.inl hidle)).trans (clockCommand_of_idle hidle)
  case busy => exact (step_read hhost (.inr haddr)).trans (clockCommand_of_left hpending)
  case last => exact (step_read hhost (.inr haddr)).trans (clockCommand_of_last hpending)
  case fault =>
    have hbusy : ¬idle s := by rw [idle, hpending]; exact Option.some_ne_none p
    exact step_read_fault hhost hbusy haddr

/-- Settles O10: the location ignores the write, and the word of an unmapped offset is 0. -/
theorem readOnlyAndUnmappedWritesAreIgnored : Obligations.ReadOnlyAndUnmappedWritesAreIgnored := by
  intro s addr v hidle
  refine ⟨fun hhost => ⟨fun r hloc hr => ?reg, fun k i hloc => ?krom, fun i hloc => ?out, fun hloc => ?unmapped⟩,
    fun hhost hloc => ?read⟩
  case reg => exact step_writeLoc hidle hhost (by rw [hloc]; exact fun lat => writeReg_of_readOnly hr lat v _) hidle
  case krom | out | unmapped => exact step_writeLoc hidle hhost (by rw [hloc]; exact fun _ => rfl) hidle
  case read =>
    rw [step_read hhost (.inl hidle), hloc]
    exact clockCommand_of_idle hidle

end Sys2Proof.Machine
end

section
/-! SUPPORT. A host write to one element of a window (20_memory R152, R154, R157, R159, R160): the bytes it stores, and
that a write within one element leaves every other element. -/

namespace Sys2Proof.Machine

/-- An index at or beyond the depth reads 0 (R158). -/
theorem readElem_of_depth_le {s : State} {w : Window} {j : Nat} (hj : windowDepth s.inst w ≤ j) : readElem s w j = 0 := by
  cases w
  case smp => simp only [readElem, smpCode, if_neg (Nat.not_lt.2 hj)]; rfl
  all_goals exact if_neg (Nat.not_lt.2 hj)

/-- A change within the four bytes of one element leaves every other element of every window (R163). -/
theorem readElem_eq_of_bytes_outside {s t : State} (hp : s.inst.legal = true) (hinst : t.inst = s.inst) {w : Window} {i : Nat}
    (hi : i < windowDepth s.inst w)
    (hbytes : ∀ a, a < elemAddr w i ∨ elemAddr w i + 4 ≤ a → byteAt t a = byteAt s a) {w' : Window} {j : Nat}
    (hne : ¬(w' = w ∧ j = i)) : readElem t w' j = readElem s w' j := by
  rcases Nat.lt_or_ge j (windowDepth s.inst w') with hj | hj
  · have hapart := elemAddr_apart (hi.trans_le (windowDepth_le_span hp w)) (hj.trans_le (windowDepth_le_span hp w')) hne
    exact readElem_eq_of_bytes s t w' j hinst fun a _ _ => hbytes a (by omega)
  · rw [readElem_of_depth_le hj, readElem_of_depth_le (hinst ▸ hj)]

/-- Byte `k` of a word stored is bits `8k+7:8k` of it (R160). -/
theorem byteAt_writeBlock_word (s : State) (w : Window) (i : Nat) (v : Word) (hi : i < windowDepth s.inst w) {k : Nat}
    (hk : k < 4) : byteAt (writeBlock s w i [v]) (elemAddr w i + k) = v.extractLsb' (8 * k) 8 := by
  have htake : [v].take (windowDepth s.inst w - i) = [v] := List.take_of_length_le (by rw [List.length_singleton]; omega)
  unfold byteAt
  rw [writeBlock_mem, htake, Memory.lookup_store_inside _ _ _ _ (by rw [bytesOfWords_length]; exact hk)]
  interval_cases k <;> rfl

/-- Byte `k` of an SMP code stored is bits `8k+7:8k` of the word written (R159, log 22). -/
theorem byteAt_writeElem_smp_inside (s : State) (i : Nat) (v : Word) (hi : i < windowDepth s.inst .smp) {k : Nat}
    (hk : k < 2) : byteAt (writeElem s .smp i v) (elemAddr .smp i + k) = v.extractLsb' (8 * k) 8 := by
  simp only [writeElem, if_pos hi]
  unfold byteAt
  rw [Memory.lookup_store_inside _ _ _ _ hk]
  have hhalf : (v.extractLsb' 0 16).extractLsb' (8 * k) 8 = v.extractLsb' (8 * k) 8 := by
    refine BitVec.eq_of_getLsbD_eq fun b hb => ?_
    simp only [BitVec.getLsbD_extractLsb', Nat.zero_add, hb, show 8 * k + b < 16 by omega, decide_true, Bool.true_and]
  interval_cases k <;> exact hhalf

/-- A write to an SMP element changes memory alone. -/
theorem writeElem_smp_frame (s : State) (i : Nat) (v : Word) :
    writeElem s .smp i v = { s with mem := (writeElem s .smp i v).mem } := by
  simp only [writeElem]
  split <;> rfl

end Sys2Proof.Machine
end

section
/-! PROOFS. O13, O14: the words that KMEM, IN and DST keep, and the codes that SMP keeps. -/

namespace Sys2Proof.Machine

/-- Settles O13: the cycle is the write of one word, whose bytes lie within the element's four. -/
theorem wordWindowsKeepTheWordWritten : Obligations.WordWindowsKeepTheWordWritten := by
  intro s addr v w i hp hidle hhost hloc hout hsmp
  have hi := locate_elem_lt _ _ _ _ hloc
  obtain ⟨t, ht⟩ : ∃ t, t = writeBlock (takeCycle s) w i [v] := ⟨_, rfl⟩
  have hframe : t = { s with host := s.host.tail, mem := t.mem } := by rw [ht]; rfl
  have hinst : t.inst = s.inst := by rw [hframe]
  have hpending : idle t := by rw [hframe]; exact hidle
  have hwrite : ∀ lat, writeLoc lat v (takeCycle s) (locate s.inst addr) = t := by
    intro lat
    rw [hloc, ht]
    cases w
    case out => exact absurd rfl hout
    case smp => exact absurd rfl hsmp
    all_goals rfl
  have hword : readElem t w i = v := ht ▸ readElem_writeBlock_inside (takeCycle s) w hsmp i 0 [v] Nat.one_pos hi
  have hbytes : ∀ a, a < elemAddr w i ∨ elemAddr w i + 4 ≤ a → byteAt t a = byteAt s a := by
    intro a ha
    have hmin : Nat.min [v].length (windowDepth s.inst w - i) = 1 := Nat.min_eq_left (Nat.sub_pos_of_lt hi)
    exact ht ▸ byteAt_writeBlock_outside (takeCycle s) w i [v] a (by rw [takeCycle_inst, hmin]; exact ha)
  exact ⟨t, step_writeLoc hidle hhost hwrite hpending, hframe, hword,
    fun k hk => ht ▸ byteAt_writeBlock_word (takeCycle s) w i v hi hk,
    fun w' j hne => readElem_eq_of_bytes_outside hp hinst hi hbytes hne, hbytes⟩

/-- Settles O14: the cycle is the write of one code, whose two bytes are the low half of the element's four. -/
theorem smpKeepsSixteenBits : Obligations.SmpKeepsSixteenBits := by
  intro s addr v i hp hidle hhost hloc
  have hi := locate_elem_lt _ _ _ _ hloc
  obtain ⟨t, ht⟩ : ∃ t, t = writeElem (takeCycle s) .smp i v := ⟨_, rfl⟩
  have hframe : t = { s with host := s.host.tail, mem := t.mem } := ht ▸ writeElem_smp_frame (takeCycle s) i v
  have hinst : t.inst = s.inst := by rw [hframe]
  have hpending : idle t := by rw [hframe]; exact hidle
  have hcode : smpCode t i = v.extractLsb' 0 16 := ht ▸ smpCode_writeElem (takeCycle s) i v hi
  have hbytes : ∀ a, a < elemAddr .smp i ∨ elemAddr .smp i + 2 ≤ a → byteAt t a = byteAt s a :=
    fun a ha => ht ▸ byteAt_writeElem_smp (takeCycle s) i v a ha
  exact ⟨t, step_writeLoc hidle hhost (by rw [hloc, ht]; exact fun _ => rfl) hpending, hframe, hcode,
    fun k hk => ht ▸ byteAt_writeElem_smp_inside (takeCycle s) i v hi hk, congrArg (BitVec.signExtend 32) hcode,
    fun w' j hne => readElem_eq_of_bytes_outside hp hinst hi (fun a ha => hbytes a (by omega)) hne, hbytes⟩

end Sys2Proof.Machine
end

section
/-! SUPPORT. Which windows an operation leaves as they are: a write of one window leaves every other (20_memory R163),
so each shared operation keeps the windows it does not name. -/

namespace Sys2Proof.Machine

/-- The step from `s` to `t` leaves every byte of the window. -/
structure KeepsWindow (w : Window) (s t : State) : Prop where
  inst : t.inst = s.inst
  bytes : ∀ a, inWindow s.inst w a = true → byteAt t a = byteAt s a

theorem KeepsWindow.trans {w : Window} {s t u : State} (hst : KeepsWindow w s t) (htu : KeepsWindow w t u) :
    KeepsWindow w s u :=
  ⟨htu.inst.trans hst.inst, fun a ha => (htu.bytes a (hst.inst ▸ ha)).trans (hst.bytes a ha)⟩

theorem KeepsWindow.legal {w : Window} {s t : State} (h : KeepsWindow w s t) (hp : s.inst.legal = true) :
    t.inst.legal = true := h.inst ▸ hp

/-- An operation that stores nothing keeps every window. -/
theorem KeepsWindow.of_mem_eq {w : Window} {s t : State} (hinst : t.inst = s.inst) (hmem : t.mem = s.mem)
    (hepoch : t.epoch = s.epoch) : KeepsWindow w s t :=
  ⟨hinst, fun a _ => by unfold byteAt; rw [hmem, hepoch]⟩

theorem inWindow_iff (p : Params) (w : Window) (a : Nat) :
    inWindow p w a = true ↔ windowBase w ≤ a ∧ a < windowBase w + 4 * windowDepth p w := by
  simp only [inWindow, Bool.and_eq_true, decide_eq_true_eq]

/-- An operation that stores words from element 0 of another window on keeps this one (R163). -/
theorem KeepsWindow.of_writeBlock {w w' : Window} {s t : State} {ws : List Word} (hp : s.inst.legal = true) (hw : w ≠ w')
    (hinst : t.inst = s.inst) (hmem : t.mem = (writeBlock s w' 0 ws).mem) (hepoch : t.epoch = s.epoch) :
    KeepsWindow w s t := by
  refine ⟨hinst, fun a ha => ?_⟩
  have hbyte : byteAt t a = byteAt (writeBlock s w' 0 ws) a := by
    unfold byteAt
    rw [hmem, hepoch, writeBlock_epoch]
  rw [hbyte]
  refine byteAt_writeBlock_outside s w' 0 ws a ?_
  obtain ⟨hlow, hhigh⟩ := (inWindow_iff ..).1 ha
  have hapart := windowSpan_apart hw
  have hdepth := windowDepth_le_span hp w
  have hdepth' := windowDepth_le_span hp w'
  have hmin : Nat.min ws.length (windowDepth s.inst w' - 0) ≤ windowDepth s.inst w' - 0 := Nat.min_le_right ..
  unfold elemAddr
  omega

theorem keepsWindow_writeBlock {w w' : Window} {s : State} (hp : s.inst.legal = true) (hw : w ≠ w') (ws : List Word) :
    KeepsWindow w s (writeBlock s w' 0 ws) := .of_writeBlock hp hw rfl rfl rfl

/-- A window whose bytes are kept reads the same, element by element. -/
theorem KeepsWindow.readElem_eq {w : Window} {s t : State} (h : KeepsWindow w s t) (j : Nat) :
    readElem t w j = readElem s w j := by
  rcases Nat.lt_or_ge j (windowDepth s.inst w) with hj | hj
  · refine readElem_eq_of_bytes s t w j h.inst fun a hlow hhigh => h.bytes a ((inWindow_iff ..).2 ?_)
    unfold elemAddr at hlow hhigh
    omega
  · rw [readElem_of_depth_le hj, readElem_of_depth_le (h.inst ▸ hj)]

/-! ### Shared operations -/

/-- An initialisation writes OUT alone, and a failed one nothing (40 R261, R262). -/
theorem keepsWindow_engineInit {w : Window} {s : State} (hp : s.inst.legal = true) (hout : w ≠ .out) {up down n klen : Nat}
    {t : State} (h : engineInit up down n klen s = .ok t ∨ engineInit up down n klen s = .error t) :
    KeepsWindow w s t := by
  rcases engineInit_cases up down n klen s with ⟨_, _, _, _, _, _, heq⟩ | ⟨_, _, _, _, _, heq⟩ | heq <;>
    rcases h with h | h <;> cases heq.symm.trans h
  · exact .of_writeBlock hp hout rfl rfl rfl
  · exact .of_writeBlock hp hout rfl rfl rfl
  · exact .of_mem_eq rfl rfl rfl

/-- `RRC_SETUP` writes KMEM, and OUT through the initialisation (41 R351). -/
theorem keepsWindow_rrcSetup {w : Window} {s : State} (hp : s.inst.legal = true) (hkmem : w ≠ .kmem) (hout : w ≠ .out)
    {upW downW : Word} {n : Nat} {t : State}
    (h : rrcSetup upW downW n s = .ok t ∨ rrcSetup upW downW n s = .error t) : KeepsWindow w s t := by
  have hprepare : KeepsWindow w s (rrcPrepare upW downW s) := .of_writeBlock hp hkmem rfl (rrcPrepare_mem ..) rfl
  rcases rrcSetup_cases upW downW n s with ⟨t', hinit, heq⟩ | ⟨t', hinit, heq⟩ <;>
    rcases h with h | h <;> cases heq.symm.trans h
  · have hengine := keepsWindow_engineInit (hprepare.legal hp) hout (.inl hinit)
    exact hprepare.trans (hengine.trans (.of_mem_eq rfl rfl rfl))
  · exact hprepare.trans (keepsWindow_engineInit (hprepare.legal hp) hout (.inr hinit))

/-- The samples of an envelope are read and not stored (42 R422). -/
theorem keepsWindow_envSamples (w : Window) (n : Nat) (s : State) : KeepsWindow w s (envSamples n s).2 := by
  obtain ⟨e, heq⟩ := envSamples_frame n s
  rw [heq]
  exact .of_mem_eq rfl rfl rfl

/-- The destination write stores in DST alone (42 R444). -/
theorem keepsWindow_writeSamples {w : Window} {s : State} (hp : s.inst.legal = true) (hdst : w ≠ .dst) (xs : List Word) :
    KeepsWindow w s (writeSamples xs s) := .of_writeBlock hp hdst rfl rfl rfl

/-- A filter apply stores in OUT alone (40 R270). -/
theorem keepsWindow_applyFilter {w : Window} {s : State} (hp : s.inst.legal = true) (hout : w ≠ .out) (numIn : Nat) :
    KeepsWindow w s (applyFilter numIn s) := .of_writeBlock hp hout rfl rfl rfl

/-- A play stores in DST, and where it resamples in IN and OUT (42 R442, R443). -/
theorem keepsWindow_playPath {w : Window} {s : State} (hp : s.inst.legal = true) (hinp : w ≠ .inp) (hout : w ≠ .out)
    (hdst : w ≠ .dst) (n : Nat) : KeepsWindow w s (playPath n s) := by
  unfold playPath
  split
  · have hsamples := keepsWindow_envSamples w n s
    exact hsamples.trans (keepsWindow_writeSamples (hsamples.legal hp) hdst _)
  · have hadvance : KeepsWindow w s (rrcAdvance s) := .of_mem_eq rfl rfl rfl
    have hsamples := hadvance.trans (keepsWindow_envSamples w (rrcDue s) (rrcAdvance s))
    have hsource := fun ws => hsamples.trans (keepsWindow_writeBlock (hsamples.legal hp) hinp ws)
    have hfilter := fun ws => (hsource ws).trans (keepsWindow_applyFilter ((hsource ws).legal hp) hout (rrcDue s))
    exact (hfilter _).trans (keepsWindow_writeSamples ((hfilter _).legal hp) hdst _)

/-! ### Commands -/

theorem keepsWindow_rseInit {w : Window} {s t : State} (hp : s.inst.legal = true) (hout : w ≠ .out)
    (hexec : exec .rseInit s = .next t) : KeepsWindow w s t := by
  rcases exec_rseInit_cases s with ⟨t', hok, heq⟩ | ⟨_, heq⟩ <;> cases heq.symm.trans hexec
  · exact keepsWindow_engineInit hp hout (.inl hok)
  · exact .of_mem_eq rfl rfl rfl

theorem keepsWindow_rseApply {w : Window} {s t : State} (hp : s.inst.legal = true) (hout : w ≠ .out)
    (hexec : exec .rseApply s = .next t) : KeepsWindow w s t := by
  rcases exec_rseApply_cases s with ⟨_, heq⟩ | ⟨_, _, heq⟩ | ⟨_, _, _, heq⟩ | ⟨_, _, _, heq⟩ <;>
    cases heq.symm.trans hexec
  · exact .of_mem_eq rfl rfl rfl
  · exact .of_mem_eq rfl rfl rfl
  · exact .of_writeBlock hp hout rfl (applyBypass_mem ..) rfl
  · exact keepsWindow_applyFilter hp hout _

theorem keepsWindow_rrcConfig {w : Window} {s t : State} (hp : s.inst.legal = true) (hkmem : w ≠ .kmem) (hout : w ≠ .out)
    (hexec : exec .rrcConfig s = .next t) : KeepsWindow w s t := by
  rcases exec_rrcConfig_cases s with ⟨t', hsetup, heq⟩ | ⟨t', hsetup, heq⟩ <;> cases heq.symm.trans hexec
  · exact keepsWindow_rrcSetup hp hkmem hout (.inl hsetup)
  · have hkeeps : KeepsWindow w s t' := keepsWindow_rrcSetup hp hkmem hout (.inr hsetup)
    exact hkeeps.trans (.of_mem_eq rfl rfl rfl)

theorem keepsWindow_envPlay {w : Window} {s t : State} (hp : s.inst.legal = true) (hkmem : w ≠ .kmem) (hinp : w ≠ .inp)
    (hout : w ≠ .out) (hdst : w ≠ .dst) (hexec : exec .envPlay s = .next t) : KeepsWindow w s t := by
  rcases exec_envPlay_cases s _ rfl with ⟨_, heq⟩ | ⟨_, _, heq⟩ | ⟨_, _, _, heq⟩ |
      ⟨_, _, _, _, ⟨t', hsetup, heq⟩ | ⟨t', hsetup, heq⟩⟩ | ⟨_, _, _, _, _, heq⟩ <;>
    cases heq.symm.trans hexec
  · exact .of_mem_eq rfl rfl rfl
  · exact .of_mem_eq rfl rfl rfl
  · exact .of_mem_eq rfl rfl rfl
  · have hkeeps : KeepsWindow w s t' := keepsWindow_rrcSetup hp hkmem hout (.inl hsetup)
    exact hkeeps.trans (keepsWindow_playPath (hkeeps.legal hp) hinp hout hdst _)
  · have hkeeps : KeepsWindow w s t' := keepsWindow_rrcSetup hp hkmem hout (.inr hsetup)
    exact hkeeps.trans (.of_mem_eq rfl rfl rfl)
  · exact keepsWindow_playPath hp hinp hout hdst _

end Sys2Proof.Machine
end

section
/-! PROOFS. O60: which windows a command may write (20_memory R152, R154, R155, R157). -/

namespace Sys2Proof.Machine

/-- A command keeps every window that it may not write. -/
theorem keepsWindow_exec (i : Instr) {w : Window} {s t : State} (hp : s.inst.legal = true) (hexec : exec i s = .next t)
    (hw : Spec.writesWindow i w = false) : KeepsWindow w s t := by
  have hne : ∀ w', Spec.writesWindow i w' = true → w ≠ w' := by
    rintro w' hw' rfl
    exact Bool.false_ne_true (hw.symm.trans hw')
  cases i
  case rseInit => exact keepsWindow_rseInit hp (hne .out rfl) hexec
  case rseApply => exact keepsWindow_rseApply hp (hne .out rfl) hexec
  case rrcConfig => exact keepsWindow_rrcConfig hp (hne .kmem rfl) (hne .out rfl) hexec
  case envPlay =>
    exact keepsWindow_envPlay hp (hne .kmem rfl) (hne .inp rfl) (hne .out rfl) (hne .dst rfl) hexec
  case rseLenin =>
    obtain ⟨st, r, heq⟩ := exec_rseLenin_frame s
    cases heq.symm.trans hexec
    exact .of_mem_eq rfl rfl rfl
  case rseLenout =>
    obtain ⟨st, r, heq⟩ := exec_rseLenout_frame s
    cases heq.symm.trans hexec
    exact .of_mem_eq rfl rfl rfl
  case rrcNext =>
    obtain ⟨st, r, c, heq⟩ := exec_rrcNext_frame s
    cases heq.symm.trans hexec
    exact .of_mem_eq rfl rfl rfl
  case envOff =>
    obtain ⟨v, _, heq⟩ := exec_envOff_frame s
    cases heq.symm.trans hexec
    exact .of_mem_eq rfl rfl rfl
  case nop | srst | rseDeinit | rseIsbyp | rseGcd | envOn | envSetadsr | envSetfade | envRemain =>
    cases hexec
    exact .of_mem_eq rfl rfl rfl

/-- Settles O60: a command keeps the bytes of a window that it may not write, and so its elements. -/
theorem commandsWriteOnlyTheirWindows : Obligations.CommandsWriteOnlyTheirWindows := by
  intro i s t w hp hexec hw
  have hkeeps := keepsWindow_exec i hp hexec hw
  exact ⟨hkeeps.readElem_eq, hkeeps.bytes⟩

end Sys2Proof.Machine
end

section
/-! SUPPORT. The decoder and the encoder (30_encoding R200 to R202, R206): a word is its reserved field and its opcode,
the opcode map is that of the commands, and `decode` and `wordLegal` as conditions on the two fields. -/

namespace Sys2Proof

/-! ### The fields of a word -/

/-- A word is determined by its reserved field and its opcode (R200). -/
theorem word_eq_of_fields {v w : Word} (hrsvd : v.extractLsb' 8 24 = w.extractLsb' 8 24)
    (hop : opcodeOf v = opcodeOf w) : v = w := by
  have hhigh := congrArg BitVec.toNat hrsvd
  have hlow := congrArg BitVec.toNat hop
  simp only [opcodeOf, BitVec.extractLsb'_toNat, Nat.shiftRight_eq_div_pow] at hhigh hlow
  have := v.isLt
  have := w.isLt
  exact BitVec.eq_of_toNat_eq (by omega)

theorem wordReservedClear_iff (w : Word) : wordReservedClear w = true ↔ w.extractLsb' 8 24 = 0 := by
  have := w.isLt
  rw [wordReservedClear, beq_iff_eq, ← BitVec.toNat_inj, BitVec.extractLsb'_toNat, Nat.shiftRight_eq_div_pow]
  change w.toNat / 256 = 0 ↔ w.toNat / 2 ^ 8 % 2 ^ 24 = 0
  omega

theorem wordOpcodeListed_iff (w : Word) : wordOpcodeListed w = true ↔ (opcodeOf w).toNat ∈ listedOpcodes := by
  rw [wordOpcodeListed, List.contains_iff_mem, opcodeOf, BitVec.extractLsb'_toNat, Nat.shiftRight_zero]

theorem wordLegal_iff (w : Word) :
    wordLegal w = true ↔ w.extractLsb' 8 24 = 0 ∧ (opcodeOf w).toNat ∈ listedOpcodes := by
  rw [wordLegal, Bool.and_eq_true, wordReservedClear_iff, wordOpcodeListed_iff]

/-! ### The commands and their opcodes -/

/-- The commands in the order of the map R202. -/
def commands : List Instr :=
  [.nop, .srst, .rseInit, .rseDeinit, .rseApply, .rseLenin, .rseLenout, .rseIsbyp, .rseGcd, .rrcConfig, .rrcNext,
   .envOn, .envOff, .envSetadsr, .envSetfade, .envPlay, .envRemain]

theorem mem_commands (i : Instr) : i ∈ commands := by cases i <;> decide

/-- The opcode column of R202 holds the opcodes of the commands. -/
theorem listedOpcodes_eq_map : listedOpcodes = commands.map fun i => (opcodeOf (encode i)).toNat := by decide

theorem mem_listedOpcodes_iff (op : Byte) : op.toNat ∈ listedOpcodes ↔ ∃ i, op = opcodeOf (encode i) := by
  rw [listedOpcodes_eq_map, List.mem_map]
  constructor
  · rintro ⟨i, _, hop⟩
    exact ⟨i, (BitVec.eq_of_toNat_eq hop).symm⟩
  · rintro ⟨i, rfl⟩
    exact ⟨i, mem_commands i, rfl⟩

/-- The facts of `Laws.EncodingLegal` for each constructor, as one for every command. -/
theorem encodingLegal : ∀ i : Instr, Laws.EncodingLegal.Statement i
  | .nop => Laws.EncodingLegal.nop
  | .srst => Laws.EncodingLegal.srst
  | .rseInit => Laws.EncodingLegal.rseInit
  | .rseDeinit => Laws.EncodingLegal.rseDeinit
  | .rseApply => Laws.EncodingLegal.rseApply
  | .rseLenin => Laws.EncodingLegal.rseLenin
  | .rseLenout => Laws.EncodingLegal.rseLenout
  | .rseIsbyp => Laws.EncodingLegal.rseIsbyp
  | .rseGcd => Laws.EncodingLegal.rseGcd
  | .rrcConfig => Laws.EncodingLegal.rrcConfig
  | .rrcNext => Laws.EncodingLegal.rrcNext
  | .envOn => Laws.EncodingLegal.envOn
  | .envOff => Laws.EncodingLegal.envOff
  | .envSetadsr => Laws.EncodingLegal.envSetadsr
  | .envSetfade => Laws.EncodingLegal.envSetfade
  | .envPlay => Laws.EncodingLegal.envPlay
  | .envRemain => Laws.EncodingLegal.envRemain

/-- The reserved field of a command's word is 0 (R200). -/
@[simp] theorem reserved_encode (i : Instr) : (encode i).extractLsb' 8 24 = 0 := (encodingLegal i).2

/-! ### The decoder -/

/-- The decoder's map from opcodes to commands is the encoder's read backwards (R202). -/
theorem decodeOpcode_eq_ok_iff (op : Byte) (i : Instr) : decodeOpcode op = .ok i ↔ op = opcodeOf (encode i) := by
  constructor
  · intro h
    unfold decodeOpcode at h
    split at h <;> cases h
    all_goals exact BitVec.eq_of_toNat_eq ‹_›
  · rintro rfl
    cases i <;> rfl

theorem decode_eq_ok_iff_fields (w : Word) (i : Instr) :
    decode w = .ok i ↔ w.extractLsb' 8 24 = 0 ∧ opcodeOf w = opcodeOf (encode i) := by
  rw [← decodeOpcode_eq_ok_iff, decode]
  split
  · next hrsvd => exact (and_iff_right hrsvd).symm
  · next hrsvd => exact iff_of_false nofun fun hfields => hrsvd hfields.1

/-- The decoder drops no bit of a word: it answers a command for that command's word alone (R201). -/
theorem decode_eq_ok_iff (w : Word) (i : Instr) : decode w = .ok i ↔ w = encode i := by
  rw [decode_eq_ok_iff_fields]
  constructor
  · rintro ⟨hrsvd, hop⟩
    exact word_eq_of_fields (hrsvd.trans (reserved_encode i).symm) hop
  · rintro rfl
    exact ⟨reserved_encode i, rfl⟩

@[simp] theorem decode_encode (i : Instr) : decode (encode i) = .ok i := (decode_eq_ok_iff _ i).2 rfl

/-- The words that select a command are the legal ones (R201, R206). -/
theorem exists_decode_eq_ok_iff (w : Word) : (∃ i, decode w = .ok i) ↔ wordLegal w = true := by
  simp only [wordLegal_iff, mem_listedOpcodes_iff, decode_eq_ok_iff_fields, exists_and_left]

/-- An illegal word is refused by the decoder (R206). -/
theorem decode_eq_error_of_illegal {w : Word} (h : wordLegal w = false) : ∃ e, decode w = .error e := by
  cases hd : decode w with
  | ok i => exact absurd ((exists_decode_eq_ok_iff w).1 ⟨i, hd⟩) (Bool.eq_false_iff.1 h)
  | error e => exact ⟨e, rfl⟩

end Sys2Proof

namespace Sys2Proof.Machine

/-- A word that the decoder refuses raises EILLEGAL with its low byte (R201). -/
theorem performWord_of_decode_error {w : Word} {e : DecodeError} (h : decode w = .error e) (s : State) :
    performWord w s = .next (raiseError .eillegal (opcodeOf w) s) := by
  rw [performWord, h]

end Sys2Proof.Machine
end

section
/-! PROOFS. O1 and O2: decoding is total and exact (30_encoding R201), and the opcode map (R202). -/

namespace Sys2Proof.Machine

/-- Settles O1: decoding as a condition on the reserved field and the opcode, and EILLEGAL for every other word. -/
theorem decodingIsTotalAndExact : Obligations.DecodingIsTotalAndExact := by
  refine ⟨decode_eq_ok_iff, exists_decode_eq_ok_iff, fun w s hillegal => ?_⟩
  obtain ⟨e, hdecode⟩ := decode_eq_error_of_illegal hillegal
  exact performWord_of_decode_error hdecode s

/-- Settles O2: the rows of the map are the commands with their words. -/
theorem opcodeMapWordsDecode : Obligations.OpcodeMapWordsDecode := by
  intro q hq
  have hrows : q ∈ commands.map fun i => (encode i, i) := hq
  obtain ⟨i, _, rfl⟩ := List.mem_map.1 hrows
  exact decode_encode i

end Sys2Proof.Machine
end

section
/-! SUPPORT. RSE_INIT by its guards (40 R252, R260 to R262): which kernels are the identity, and what each of the three
ends builds, with OUT's elements and the bytes around them. -/

namespace Sys2Proof.Machine

/-! ### Words written from element 0 of OUT on -/

/-- An operation whose memory is that of a block written at the start of OUT: OUT's elements are the block's words, and
every byte outside them stays. -/
theorem out_after_writeBlock {s t : State} {ws : List Word} (hinst : t.inst = s.inst)
    (hmem : t.mem = (writeBlock s .out 0 ws).mem) (hepoch : t.epoch = s.epoch)
    (hfit : ws.length ≤ s.inst.capOut.toNat) :
    (∀ i, i < ws.length → readElem t .out i = ws.getD i 0) ∧
    (∀ a, Spec.outside .out ws.length a → byteAt t a = byteAt s a) := by
  constructor
  · intro i hi
    have helem := readElem_writeBlock_inside s .out (by decide) 0 i ws hi (by rw [Nat.zero_add]; exact hi.trans_le hfit)
    rw [Nat.zero_add] at helem
    rw [readElem_congr (writeBlock s .out 0 ws) t hinst hmem hepoch, helem, List.getD_eq_getElem _ _ hi]
  · intro a ha
    have hbyte : byteAt t a = byteAt (writeBlock s .out 0 ws) a := by
      unfold byteAt
      rw [hmem, hepoch, writeBlock_epoch]
    have hmin : Nat.min ws.length (windowDepth s.inst .out - 0) = ws.length := Nat.min_eq_left hfit
    rw [hbyte, byteAt_writeBlock_outside s .out 0 ws a (by rw [hmin]; exact ha)]

/-- A block read from element 0 on is the window's elements. -/
theorem readBlock_zero_eq_elements (s : State) (w : Window) (count : Nat) :
    readBlock s w 0 count = Spec.elements s w count := by
  simp only [readBlock, Nat.zero_add]

/-! ### The identity kernel -/

/-- Only the pattern 0x3F800000 equals 1.0 (40 R252). -/
theorem F32.eq_one_iff (w : Word) : F32.eq w F32.one = true ↔ w = 0x3F800000 := by
  cases hnan : F32.isNaN w with
  | true =>
    have hne : w ≠ 0x3F800000 := by rintro rfl; revert hnan; decide
    have hfalse : F32.eq w F32.one = false := (F32.ops_of_nan 0 (.inl hnan)).2.2.2.2
    exact iff_of_false (by rw [hfalse]; decide) hne
  | false =>
    have hmag : F32.mag F32.one ≠ 0 := by decide
    rw [F32.eq_true_iff hnan (by decide), F32.value_eq_value_iff]
    simp only [hmag, and_false, or_false]
    exact ⟨fun h => h.elim id fun h => h.2.2, .inl⟩

/-- The identity kernels: none, and the single tap 1.0 (40 R252). -/
theorem identKernel_iff (s : State) (klen : Nat) :
    identKernel s klen = true ↔ klen = 0 ∨ (klen = 1 ∧ readElem s .kmem 0 = 0x3F800000) := by
  simp only [identKernel, Bool.or_eq_true, Bool.and_eq_true, beq_iff_eq, F32.eq_one_iff]

/-! ### The three ends -/

/-- A ratio and a kernel that filter, within the capacities (40 R261). -/
theorem engineInit_of_filter {up down n klen : Nat} {s : State} (hk : klen ≤ s.inst.capKmax.toNat)
    (hident : ¬((reduce up down).1 = 1 ∧ (reduce up down).2 = 1 ∧ identKernel s klen = true))
    (hh : ceilDiv klen (reduce up down).1 * (reduce up down).1 - 1 ≤ s.inst.capHist.toNat)
    (hin : ceilDiv (n * (reduce up down).2) (reduce up down).1 ≤ s.inst.capIn.toNat)
    (hout : n + ceilDiv (reduce up down).1 (reduce up down).2 ≤ s.inst.capOut.toNat) :
    engineInit up down n klen s =
      .ok (configureEngine s false (reduce up down).1 (reduce up down).2 n klen (ceilDiv klen (reduce up down).1)
        (ceilDiv klen (reduce up down).1 * (reduce up down).1 - 1) (ceilDiv (n * (reduce up down).2) (reduce up down).1)
        (ceilDiv (reduce up down).1 (reduce up down).2)) := by
  unfold engineInit
  simp only []
  rw [if_neg (Nat.not_lt.2 hk), if_neg hident, if_neg (by omega)]

/-- A 1:1 ratio with an identity kernel, within the capacities (40 R261). -/
theorem engineInit_of_bypass {up down n klen : Nat} {s : State} (hk : klen ≤ s.inst.capKmax.toNat)
    (hu : (reduce up down).1 = 1) (hd : (reduce up down).2 = 1) (hident : identKernel s klen = true)
    (hin : n ≤ s.inst.capIn.toNat) (hout : n ≤ s.inst.capOut.toNat) :
    engineInit up down n klen s = .ok (configureEngine s true 1 1 n klen 0 0 n 0) := by
  unfold engineInit
  simp only []
  rw [if_neg (Nat.not_lt.2 hk), if_pos ⟨hu, hd, hident⟩, if_neg (by omega), hu, hd]

theorem exec_rseInit_of_ok {s t : State}
    (h : engineInit (operandU32 s.arg.a0) (operandU32 s.arg.a1) (operandU32 s.arg.a2) (operandU32 s.arg.a3) s = .ok t) :
    exec .rseInit s = .next t := by
  rcases exec_rseInit_cases s with ⟨t', hok, hexec⟩ | ⟨herr, _⟩
  · cases h.symm.trans hok
    exact hexec
  · cases h.symm.trans herr

/-- A configured engine's stores and memory, whichever its mode: KL is the kernel in KMEM, every element of OUT is +0.0,
and no byte outside OUT changes (40 R261). -/
theorem configureEngine_stores (s : State) (byp : Bool) (u d n klen phl h inmax offmax : Nat) {t : State}
    (ht : t = configureEngine s byp u d n klen phl h inmax offmax) :
    t = { s with rse := t.rse, rrc := Spec.cleared s.rrc, mem := t.mem } ∧
    t.rse.kl = Spec.elements s .kmem klen ∧
    (∀ i, i < s.inst.capOut.toNat → readElem t .out i = 0) ∧
    (∀ a, Spec.outside .out s.inst.capOut.toNat a → byteAt t a = byteAt s a) := by
  subst ht
  obtain ⟨helem, hbyte⟩ := out_after_writeBlock (s := s) (t := configureEngine s byp u d n klen phl h inmax offmax)
    (ws := List.replicate s.inst.capOut.toNat F32.zero) rfl rfl rfl (List.length_replicate).le
  rw [List.length_replicate] at helem hbyte
  refine ⟨rfl, readBlock_zero_eq_elements s .kmem klen, fun i hi => ?_, hbyte⟩
  rw [helem i hi, List.getD_replicate _ hi]
  rfl

/-- The registers of a configured engine, where each value fits its register. -/
theorem freshEngine_configureEngine (s : State) (byp : Bool) {u d n klen phl h inmax offmax : Nat} (hu : u < 2 ^ 32)
    (hd : d < 2 ^ 32) (hn : n < 2 ^ 32) (hklen : klen < 2 ^ 32) (hphl : phl < 2 ^ 32) (hh : h < 2 ^ 32)
    (hinmax : inmax < 2 ^ 32) (hoffmax : offmax < 2 ^ 32) :
    Spec.freshEngine (configureEngine s byp u d n klen phl h inmax offmax).rse byp u d n klen phl h inmax offmax :=
  ⟨rfl, rfl, resultU32_toNat hu, resultU32_toNat hd, resultU32_toNat hn, resultU32_toNat hklen, resultU32_toNat hphl,
    resultU32_toNat hh, resultU32_toNat hinmax, resultU32_toNat hoffmax, rfl, rfl, rfl, rfl, rfl⟩

end Sys2Proof.Machine
end

section
/-! PROOFS. O19 to O22: what RSE_INIT builds, where it fails, and RSE_DEINIT. -/

namespace Sys2Proof.Machine

/-- Settles O19: the filter end of `ENGINE_INIT`, whose sizes fit their registers since they fit the capacities. -/
theorem rseInitBuildsTheFilterEngine : Obligations.RseInitBuildsTheFilterEngine := by
  rintro s g u d n klen phl rfl hu hd rfl rfl rfl hk hident hh hin hout
  rw [← identKernel_iff] at hident
  obtain ⟨hu1, -, -⟩ := reduce_spec s.arg.a0.toNat s.arg.a1.toNat
  obtain ⟨hu', hd'⟩ := reduce_lt s.arg.a0.isLt s.arg.a1.isLt
  obtain rfl : u = (reduce s.arg.a0.toNat s.arg.a1.toNat).1 := hu
  obtain rfl : d = (reduce s.arg.a0.toNat s.arg.a1.toNat).2 := hd
  obtain ⟨hframe, hkl, helem, hbyte⟩ := configureEngine_stores s false _ _ _ _ _ _ _ _ rfl
  have hphl := (ceilDiv_le_self s.arg.a3.toNat hu1).trans_lt s.arg.a3.isLt
  have hoffmax := (Nat.le_of_add_left_le hout).trans_lt s.inst.capOut.isLt
  exact ⟨_, exec_rseInit_of_ok (engineInit_of_filter hk hident hh hin hout), hframe,
    freshEngine_configureEngine s false hu' hd' s.arg.a2.isLt s.arg.a3.isLt hphl (hh.trans_lt s.inst.capHist.isLt)
      (hin.trans_lt s.inst.capIn.isLt) hoffmax, hkl, helem, hbyte⟩

/-- Settles O20: the bypass end of `ENGINE_INIT`. -/
theorem rseInitBuildsTheBypassEngine : Obligations.RseInitBuildsTheBypassEngine := by
  rintro s g n klen rfl hu hd rfl rfl hk hident hin hout
  obtain ⟨hframe, hkl, helem, hbyte⟩ := configureEngine_stores s true 1 1 _ _ 0 0 _ 0 rfl
  exact ⟨_, exec_rseInit_of_ok (engineInit_of_bypass hk hu hd ((identKernel_iff s _).2 hident) hin hout), hframe,
    freshEngine_configureEngine s true (by decide) (by decide) s.arg.a2.isLt s.arg.a3.isLt (by decide) (by decide)
      s.arg.a2.isLt (by decide), hkl, helem, hbyte⟩

/-- Settles O21: beyond a capacity neither success of `ENGINE_INIT` has its guards, so it fails. -/
theorem rseInitOverCapacityFails : Obligations.RseInitOverCapacityFails := by
  rintro s g u d n klen rfl hu hd rfl rfl hover
  obtain rfl : u = (reduce s.arg.a0.toNat s.arg.a1.toNat).1 := hu
  obtain rfl : d = (reduce s.arg.a0.toNat s.arg.a1.toNat).2 := hd
  rw [← identKernel_iff] at hover
  have hfails : engineInit s.arg.a0.toNat s.arg.a1.toNat s.arg.a2.toNat s.arg.a3.toNat s = .error (failEngine s) := by
    rcases engineInit_cases s.arg.a0.toNat s.arg.a1.toNat s.arg.a2.toNat s.arg.a3.toNat s with
      ⟨hk, hu1, hd1, hident, hin, hout, -⟩ | ⟨hk, hident, hh, hin, hout, -⟩ | herr
    · rcases hover with h | ⟨-, -, -, h⟩ | ⟨h, -⟩
      · omega
      · omega
      · exact absurd ⟨hu1, hd1, hident⟩ h
    · unfold ceilDiv at hh hin hout
      rcases hover with h | ⟨hu1, hd1, h, -⟩ | ⟨-, h⟩
      · omega
      · exact absurd ⟨hu1, hd1, h⟩ hident
      · omega
    · exact herr
  rcases exec_rseInit_cases s with ⟨t, hok, -⟩ | ⟨-, hexec⟩
  · cases hfails.symm.trans hok
  · exact hexec

/-- Settles O22: RSE_DEINIT is the tear-down. -/
theorem rseDeinitClearsTheEngine : Obligations.RseDeinitClearsTheEngine := fun _ => rfl

end Sys2Proof.Machine
end

section
/-! PROOFS. O23, O30 to O33: the commands of RSE that answer in RES or in the error record alone. -/

namespace Sys2Proof.Machine

/-- A refusal writes the code and the opcode of the command into the record and nothing else (60 R532). -/
theorem raiseIn_eq_refusedAs (code : ErrorCode) (i : Instr) (s : State) :
    raiseIn code i s = Spec.refusedAs s (errorCodeByte code) (opcodeOf (encode i)) := rfl

/-- Settles O23: the first check that fails ends the command. -/
theorem refusedRseCommandsOnlyRecord : Obligations.RefusedRseCommandsOnlyRecord := by
  intro s
  refine ⟨fun hm => ?notActive, fun hm => ⟨fun hlen => ?einlen, fun hu hrange => ?lenin, fun hrange => ?lenout⟩⟩
  case notActive => simp only [exec, execRseApply, execRseLenin, execRseLenout, if_pos hm]; exact ⟨rfl, rfl, rfl⟩
  case einlen =>
    rcases exec_rseApply_cases s with ⟨h, -⟩ | ⟨-, -, hexec⟩ | ⟨-, h, -⟩ | ⟨-, h, -⟩
    · exact absurd hm h
    · exact hexec
    · exact absurd hlen (Nat.not_lt.2 h)
    · exact absurd hlen (Nat.not_lt.2 h)
  case lenin =>
    rcases exec_rseLenin_cases s _ rfl with ⟨h, -⟩ | ⟨-, -, hexec⟩ | ⟨-, h, -⟩
    · exact absurd hm h
    · exact hexec
    · rw [(negotiate_sizes _ _ hu).2.1] at h
      exact absurd hrange (Nat.not_le.2 h)
  case lenout =>
    rcases exec_rseLenout_cases s _ rfl with ⟨h, -⟩ | ⟨-, -, hexec⟩ | ⟨-, h, -⟩
    · exact absurd hm h
    · exact hexec
    · exact absurd hrange (Nat.not_le.2 h)

/-- The counts of a negotiation (40 R258): of a cycle of `u / g` blocks for `g = gcd(r, u)`, as many have the longer
length as make up the remainder. -/
theorem negotiate_counts (m d : Nat) {u : Nat} (hu : 0 < u) :
    (negotiate m u d).min = m * d / u ∧
    (m * d % u = 0 → (negotiate m u d).nummin = 1 ∧ (negotiate m u d).nummax = 0) ∧
    (m * d % u ≠ 0 → (negotiate m u d).nummax * Nat.gcd (m * d % u) u = m * d % u ∧
      ((negotiate m u d).nummin + (negotiate m u d).nummax) * Nat.gcd (m * d % u) u = u) := by
  by_cases hr : m * d % u = 0
  · simp [negotiate, hr]
  · have hle : m * d % u / Nat.gcd (m * d % u) u ≤ u / Nat.gcd (m * d % u) u :=
      Nat.div_le_div_right (Nat.mod_lt _ hu).le
    simp only [negotiate, hr, if_false]
    refine ⟨trivial, fun h => h.elim, fun _ => ⟨Nat.div_mul_cancel (Nat.gcd_dvd_left _ _), ?_⟩⟩
    rw [Nat.sub_add_cancel hle, Nat.div_mul_cancel (Nat.gcd_dvd_right _ _)]

/-- The inputs of a cycle make up its blocks exactly (40 R258: `nmin·mn + nmax·mx = cyc·M·D/U`). -/
theorem negotiate_exact (m d : Nat) {u : Nat} (hu : 0 < u) :
    u * ((negotiate m u d).nummin * (negotiate m u d).min + (negotiate m u d).nummax * (negotiate m u d).max) =
      ((negotiate m u d).nummin + (negotiate m u d).nummax) * (m * d) := by
  obtain ⟨hmin, hwhole, hpart⟩ := negotiate_counts m d hu
  rw [hmin, (negotiate_sizes m d hu).2.1, ceilDiv_eq_div_add _ hu]
  generalize (negotiate m u d).nummin = a, (negotiate m u d).nummax = b at *
  generalize m * d = q at *
  have hq := Nat.div_add_mod q u
  by_cases hr : q % u = 0
  · obtain ⟨rfl, rfl⟩ := hwhole hr
    rw [if_pos hr]
    simpa [hr] using hq
  · obtain ⟨hb, hab⟩ := hpart hr
    have hcross : u * b = (a + b) * (q % u) := by
      calc u * b = (a + b) * Nat.gcd (q % u) u * b := by rw [hab]
        _ = (a + b) * (b * Nat.gcd (q % u) u) := by ring
        _ = (a + b) * (q % u) := by rw [hb]
    rw [if_neg hr]
    calc u * (a * (q / u) + b * (q / u + 1)) = (a + b) * (u * (q / u)) + u * b := by ring
      _ = (a + b) * (u * (q / u) + q % u) := by rw [hcross, Nat.mul_add]
      _ = (a + b) * q := by rw [hq]

/-- Settles O30: the negotiation's four numbers fit their registers. -/
theorem rseLeninGivesTheNegotiation : Obligations.RseLeninGivesTheNegotiation := by
  rintro s q u hm rfl hu rfl hrange
  obtain ⟨hle, hmax, hnummin, hnummax, -, -⟩ := negotiate_sizes s.arg.a0.toNat s.rse.d.toNat hu
  obtain ⟨hmin, hwhole, hpart⟩ := negotiate_counts s.arg.a0.toNat s.rse.d.toNat hu
  have hexact := negotiate_exact s.arg.a0.toNat s.rse.d.toNat hu
  have hmax' : (negotiate s.arg.a0.toNat s.rse.u.toNat s.rse.d.toNat).max < 2 ^ 32 := hmax ▸ hrange
  rcases exec_rseLenin_cases s _ rfl with ⟨h, -⟩ | ⟨-, h, -⟩ | ⟨-, -, hexec⟩
  · exact absurd hm h
  · exact absurd hmax' (Nat.not_lt.2 h)
  · have e0 := resultU32_toNat (hle.trans_lt hmax')
    have e1 := resultU32_toNat hmax'
    have e2 := resultU32_toNat (hnummin.trans_lt s.rse.u.isLt)
    have e3 := resultU32_toNat (hnummax.trans_lt s.rse.u.isLt)
    refine ⟨_, hexec, rfl, e0.trans hmin, e1.trans hmax, fun hr => ?whole, fun hr => ?part, ?exact⟩
    case whole =>
      obtain ⟨h2, h3⟩ := hwhole hr
      exact ⟨congrArg resultU32 h2, congrArg resultU32 h3⟩
    case part => simpa only [operandU32, e2, e3] using hpart hr
    case exact => simpa only [operandU32, e0, e1, e2, e3] using hexact

/-- Settles O31: `LENOUT` is the ceiling of `U·I/D`, and so the least such `o`. -/
theorem rseLenoutGivesTheOutputCount : Obligations.RseLenoutGivesTheOutputCount := by
  intro s o hm hd ho hleast hrange
  have hlen : lenOut (operandU32 s.arg.a0) s.rse.u.toNat s.rse.d.toNat = o := by
    refine Nat.le_antisymm ((ceilDiv_le_iff _ _ _ hd).2 (by rwa [Nat.mul_comm o])) (hleast _ ?_)
    rw [Nat.mul_comm s.rse.d.toNat]
    exact le_ceilDiv_mul _ _ hd
  rcases exec_rseLenout_cases s o hlen.symm with ⟨h, -⟩ | ⟨-, h, -⟩ | ⟨-, -, hexec⟩
  · exact absurd hm h
  · exact absurd hrange (Nat.not_lt.2 h)
  · exact ⟨_, hexec, rfl, resultU32_toNat hrange⟩

/-- Settles O32: the result is the bit, which an engine that holds nothing has clear. -/
theorem rseIsbypGivesTheBypassBit : Obligations.RseIsbypGivesTheBypassBit := by
  intro s
  refine ⟨rfl, fun hidle hm => ?_⟩
  have hbyp : s.rse.byp = false := by rw [hidle hm]; rfl
  simp only [exec, execRseIsbyp, hbyp]
  rfl

/-- Settles O33: the greatest common divisor of two words is a word. -/
theorem rseGcdGivesTheGreatestCommonDivisor : Obligations.RseGcdGivesTheGreatestCommonDivisor := by
  intro s
  have hlt : Nat.gcd s.arg.a0.toNat s.arg.a1.toNat < 2 ^ 32 := by
    rcases Nat.eq_zero_or_pos s.arg.a0.toNat with h | h
    · rw [h, Nat.gcd_zero_left]; exact s.arg.a1.isLt
    · exact (Nat.gcd_le_left _ h).trans_lt s.arg.a0.isLt
  refine ⟨_, rfl, rfl, ?_⟩
  rw [show (resultU32 (Nat.gcd (operandU32 s.arg.a0) (operandU32 s.arg.a1))).toNat = _ from resultU32_toNat hlt]
  exact ⟨Nat.gcd_dvd_left _ _, Nat.gcd_dvd_right _ _, fun _ => Nat.dvd_gcd⟩

end Sys2Proof.Machine
end

section
/-! SUPPORT. RSE_APPLY by its guards (40 R265), and what a filtering apply leaves in STATUS and in the engine. -/

namespace Sys2Proof.Machine

/-- In bypass a chunk of at most INMAX samples is copied (40 R266). -/
theorem exec_rseApply_of_bypass {s : State} (hm : s.rse.mode = .active) (hb : s.rse.byp = true)
    (hlen : s.arg.a0.toNat ≤ s.rse.inmax.toNat) : exec .rseApply s = .next (applyBypass s.arg.a0.toNat s) := by
  simp only [exec, execRseApply, ne_eq, hm, not_true, if_false, if_neg (Nat.not_lt.2 hlen), hb, if_true, operandU32]

/-- Else a chunk of at most INMAX samples is filtered (40 R267). -/
theorem exec_rseApply_of_filter {s : State} (hm : s.rse.mode = .active) (hb : s.rse.byp = false)
    (hlen : s.arg.a0.toNat ≤ s.rse.inmax.toNat) : exec .rseApply s = .next (applyFilter s.arg.a0.toNat s) := by
  simp only [exec, execRseApply, ne_eq, hm, not_true, if_false, if_neg (Nat.not_lt.2 hlen), hb,
    Bool.false_eq_true, operandU32]

/-- The samples that a filtering apply has to deliver: those carried over, then those it computes (40 R270). -/
def available (numIn : Nat) (s : State) : List Word :=
  s.rse.carrybuf ++ keptOutputs s.draws s.rse (readBlock s .inp 0 numIn)

/-- Both flags are sticky: UNR is set where too few samples are there, OVR where too many are left (40 R270). -/
theorem applyFilter_status (numIn : Nat) (s : State) :
    (applyFilter numIn s).status =
      { s.status with
        unr := s.status.unr || decide ((available numIn s).length < s.rse.n.toNat)
        ovr := s.status.ovr || decide (s.rse.n.toNat + s.rse.offmax.toNat < (available numIn s).length) } := by
  obtain ⟨hunr, hovr⟩ := deliver_flags s.rse.n.toNat s.rse.offmax.toNat (available numIn s)
  rw [← hunr, ← hovr]
  rfl

/-- The new carry (40 R270). -/
theorem applyFilter_carrybuf (numIn : Nat) (s : State) :
    (applyFilter numIn s).rse.carrybuf = ((available numIn s).drop s.rse.n.toNat).take s.rse.offmax.toNat :=
  (deliver_carry s.rse.n.toNat s.rse.offmax.toNat (available numIn s)).1

/-- RSE_CARRY is the length of the carry, which OFFMAX bounds (40 R270). -/
theorem applyFilter_carry (numIn : Nat) (s : State) :
    (applyFilter numIn s).rse.carry.toNat = (applyFilter numIn s).rse.carrybuf.length ∧
    (applyFilter numIn s).rse.carrybuf.length ≤ s.rse.offmax.toNat := by
  have hle := (deliver_carry s.rse.n.toNat s.rse.offmax.toNat (available numIn s)).2
  exact ⟨resultU32_toNat (hle.trans_lt s.rse.offmax.isLt), hle⟩

/-- The new decimation phase (40 R256). -/
theorem applyFilter_dph (numIn : Nat) {s : State} (hd : 0 < s.rse.d.toNat) :
    (applyFilter numIn s).rse.dph.toNat = nextPhase s.rse.dph.toNat s.rse.u.toNat numIn s.rse.d.toNat := by
  have hlt := (nextPhase_spec s.rse.dph.toNat s.rse.u.toNat numIn s.rse.d.toNat hd).2
  have heq := resultU32_toNat (hlt.trans s.rse.d.isLt)
  rw [applyFilter_rse, applyEngine, readBlock_length]
  exact heq

end Sys2Proof.Machine
end

section
/-! PROOFS. O24, O25: what RSE_APPLY writes in bypass and when it filters. -/

namespace Sys2Proof.Machine

/-- Settles O24: the block written at the start of OUT is the chunk. -/
theorem rseApplyInBypassCopies : Obligations.RseApplyInBypassCopies := by
  rintro s numIn - rfl hm hb hlen hfit
  have hcount : (readBlock s .inp 0 s.arg.a0.toNat).length = s.arg.a0.toNat := readBlock_length ..
  obtain ⟨helem, hbyte⟩ := out_after_writeBlock (s := s) (t := applyBypass s.arg.a0.toNat s) rfl (applyBypass_mem ..) rfl
    (hcount.trans_le hfit)
  rw [hcount] at helem hbyte
  refine ⟨_, exec_rseApply_of_bypass hm hb hlen, ?frame, fun i hi => ?copied, hbyte⟩
  case frame =>
    have hcnt : (applyBypass s.arg.a0.toNat s).rse = { s.rse with outcnt := s.arg.a0 } := by
      rw [applyBypass_rse]
      exact congrArg (fun w => { s.rse with outcnt := w }) (resultU32_operandU32 s.arg.a0)
    rw [← hcnt]
    rfl
  case copied => rw [helem i hi, List.getD, readBlock_getElem? s .inp 0 _ i hi, Nat.zero_add, Option.getD_some]

/-- Settles O25: the delivery's block is what OUT receives, and its carry, flags and phase are the engine's. -/
theorem rseApplyDeliversWithCarry : Obligations.RseApplyDeliversWithCarry := by
  rintro s numIn n chunk av rfl rfl hm hb hlen hfit hd rfl rfl
  obtain ⟨hblock, hsamples⟩ := deliver_block s.rse.n.toNat s.rse.offmax.toNat (available s.arg.a0.toNat s)
  obtain ⟨helem, hbyte⟩ := out_after_writeBlock (s := s) (t := applyFilter s.arg.a0.toNat s)
    (ws := (deliver s.rse.n.toNat s.rse.offmax.toNat (available s.arg.a0.toNat s)).block) rfl rfl rfl
    (hblock.trans_le hfit)
  rw [hblock] at helem hbyte
  obtain ⟨hcarry, -⟩ := applyFilter_carry s.arg.a0.toNat s
  obtain ⟨hphase, -⟩ := nextPhase_spec s.rse.dph.toNat s.rse.u.toNat s.arg.a0.toNat s.rse.d.toNat hd
  rw [← readBlock_zero_eq_elements]
  refine ⟨_, exec_rseApply_of_filter hm hb hlen, rfl, fun i hi => (helem i hi).trans (hsamples i hi), hbyte,
    applyFilter_status .., ?engine, hcarry, by rw [applyFilter_dph _ hd, hphase]⟩
  rw [← available, ← applyFilter_carrybuf]
  rfl

end Sys2Proof.Machine
end

section
/-! SUPPORT. A filtered value as an accumulation (40 R254), tap by tap. -/

namespace Sys2Proof.Machine

/-- The accumulator of FIRPOS after the taps `0`, …, `t - 1`. -/
def firAcc (base : Nat) (r : Rse) (staged : List Word) (m p : Nat) : Nat → Word
  | 0 => F32.zero
  | t + 1 =>
    F32.add (base + 2 * t + 1) (firAcc base r staged m p t)
      (F32.mul (base + 2 * t) (phaseTap r p t) (staged.getD (r.h.toNat + m - t) F32.zero))

/-- FIRPOS is the accumulator after all PHL taps. -/
theorem firPos_eq_firAcc (base : Nat) (r : Rse) (staged : List Word) (m p : Nat) :
    firPos base r staged m p = firAcc base r staged m p r.phl.toNat := by
  unfold firPos
  induction r.phl.toNat with
  | zero => rfl
  | succ t ih => rw [List.range_succ, List.foldl_append, ih]; rfl

/-- A sequence that starts and steps as the accumulator does is the accumulator. -/
theorem firAcc_unique {base : Nat} {r : Rse} {staged : List Word} {m p n : Nat} {acc : Nat → Word}
    (h0 : acc 0 = F32.zero)
    (hstep : ∀ t, t < n → acc (t + 1) = F32.add (base + 2 * t + 1) (acc t)
      (F32.mul (base + 2 * t) (phaseTap r p t) (staged.getD (r.h.toNat + m - t) F32.zero))) :
    firAcc base r staged m p n = acc n := by
  induction n with
  | zero => exact h0.symm
  | succ n ih =>
    rw [hstep n n.lt_succ_self, ← ih fun t ht => hstep t (ht.trans n.lt_succ_self)]
    rfl

/-- The accumulation over two equal windows gives the same datum, whichever draws it would use. -/
theorem firAcc_same (base base' : Nat) (r : Rse) {staged staged' : List Word} {m m' : Nat} (p : Nat) {n : Nat}
    (hwindow : ∀ t, t < n →
      staged.getD (r.h.toNat + m - t) F32.zero = staged'.getD (r.h.toNat + m' - t) F32.zero) :
    sameSample (firAcc base r staged m p n) (firAcc base' r staged' m' p n) := by
  induction n with
  | zero => exact sameSample_refl _
  | succ n ih =>
    refine F32.add_same _ _ (ih fun t ht => hwindow t (ht.trans n.lt_succ_self)) (F32.mul_same _ _ (sameSample_refl _) ?_)
    rw [hwindow n n.lt_succ_self]
    exact sameSample_refl _

end Sys2Proof.Machine
end

section
/-! PROOFS. O27: an infinity or a NaN in a sum or product leaves one (40 R273, 00_scope R15). -/

namespace Sys2Proof.Machine

/-- What is not finite is an infinity or a NaN. -/
theorem F32.isFinite_eq_false_iff (w : Word) : F32.isFinite w = false ↔ F32.isInf w = true ∨ F32.isNaN w = true := by
  rw [← Bool.not_eq_true, F32.isFinite_iff, F32.isInf_iff, F32.isNaN_iff]
  omega

/-- A product with an infinity or a NaN is one, whatever the other factor. -/
theorem F32.mul_isFinite_eq_false (q : Nat) (a : Word) {b : Word} (hb : F32.isFinite b = false) :
    F32.isFinite (F32.mul q a b) = false := by
  rw [F32.isFinite_eq_false_iff] at hb ⊢
  rcases hb with hb | hb
  · cases ha : F32.isFinite a with
    | true =>
      obtain ⟨hinf, hnan⟩ := F32.mul_isInf_isFinite q hb ha
      by_cases h0 : F32.value a = 0
      · exact .inr (hnan h0).2
      · rw [(hinf h0).2, F32.infinity_eq_pack, F32.isInf_iff]
        exact .inl (F32.bits_pack _ (by decide))
    | false =>
      rcases (F32.isFinite_eq_false_iff a).1 ha with ha | ha
      · rw [(F32.mul_div_isInf_isInf q ha hb).1, F32.infinity_eq_pack, F32.isInf_iff]
        exact .inl (F32.bits_pack _ (by decide))
      · exact .inr (F32.mul_of_nan q (.inl ha) ▸ F32.isNaN_nan q)
  · exact .inr (F32.mul_of_nan q (.inr hb) ▸ F32.isNaN_nan q)

/-- A sum with an infinity or a NaN is one. -/
theorem F32.add_isFinite_eq_false (q : Nat) {a b : Word} (h : F32.isFinite a = false ∨ F32.isFinite b = false) :
    F32.isFinite (F32.add q a b) = false := by
  rw [F32.isFinite_eq_false_iff]
  have ofNaN : F32.isNaN a = true ∨ F32.isNaN b = true → F32.isNaN (F32.add q a b) = true :=
    fun hnan => F32.add_of_nan q hnan ▸ F32.isNaN_nan q
  cases ha : F32.isFinite a with
  | true =>
    rcases (F32.isFinite_eq_false_iff b).1 (h.resolve_left (by simp [ha])) with hb | hb
    · exact .inl ((F32.add_isInf_isFinite q hb ha).2.symm ▸ hb)
    · exact .inr (ofNaN (.inr hb))
  | false =>
    rcases (F32.isFinite_eq_false_iff a).1 ha with hainf | hanan
    · cases hb : F32.isFinite b with
      | true => exact .inl ((F32.add_isInf_isFinite q hainf hb).1.symm ▸ hainf)
      | false =>
        rcases (F32.isFinite_eq_false_iff b).1 hb with hbinf | hbnan
        · obtain ⟨hsame, hdiff⟩ := F32.add_isInf_isInf q hainf hbinf
          by_cases hs : F32.sign a = F32.sign b
          · exact .inl ((hsame hs).symm ▸ hainf)
          · exact .inr (hdiff hs)
        · exact .inr (ofNaN (.inr hbnan))
    · exact .inr (ofNaN (.inl hanan))

/-- An accumulation that meets a sample that is not finite is not finite from there on. -/
theorem firAcc_isFinite_eq_false (base : Nat) (r : Rse) (staged : List Word) (m p : Nat) {t n : Nat} (ht : t < n)
    (hsample : F32.isFinite (staged.getD (r.h.toNat + m - t) F32.zero) = false) :
    F32.isFinite (firAcc base r staged m p n) = false := by
  induction n with
  | zero => omega
  | succ n ih =>
    refine F32.add_isFinite_eq_false _ ?_
    rcases Nat.lt_succ_iff_lt_or_eq.1 ht with hlt | rfl
    · exact .inl (ih hlt)
    · exact .inr (F32.mul_isFinite_eq_false _ _ hsample)

/-- Settles O27: the window is the samples that the accumulation meets. -/
theorem nonFiniteSamplesStayNonFinite : Obligations.NonFiniteSamplesStayNonFinite := by
  intro base r staged m p t ht hsample
  rw [firPos_eq_firAcc]
  exact firAcc_isFinite_eq_false base r staged m p ht hsample

end Sys2Proof.Machine
end

section
/-! SUPPORT. Decimation (40 R255, R256): the kept positions are `DPH`, `DPH + D`, …, how many of them a chunk has, and
how positions and phase continue over two chunks. -/

namespace Sys2Proof.Machine

/-- The least `q` with `a ≤ q * b`, counted from below. -/
theorem lt_ceilDiv_iff (a b q : Nat) (hb : 0 < b) : q < ceilDiv a b ↔ q * b < a := by
  rw [← Nat.not_le, ceilDiv_le_iff a b q hb, Nat.not_le]

/-- A multiple of the divisor adds its quotient. -/
theorem ceilDiv_add_mul (a c : Nat) {b : Nat} (hb : 0 < b) : ceilDiv (a + b * c) b = ceilDiv a b + c := by
  unfold ceilDiv
  rw [show a + b * c + b - 1 = a + b - 1 + b * c by omega, Nat.add_mul_div_left _ _ hb]

/-! ### How many positions are kept -/

/-- How many of the positions below `n` decimation keeps (40 R255). -/
def keptBelow (dph d n : Nat) : Nat := if dph < n then ceilDiv (n - dph) d else 0

theorem keptCount_eq_keptBelow (r : Rse) (numIn : Nat) :
    keptCount r numIn = keptBelow r.dph.toNat r.d.toNat (r.u.toNat * numIn) := rfl

/-- Kept position `i` is `DPH + D·i`, and it is counted where it is below the bound. -/
theorem lt_keptBelow_iff (dph n i : Nat) {d : Nat} (hd : 0 < d) : i < keptBelow dph d n ↔ dph + d * i < n := by
  unfold keptBelow
  split
  · rw [lt_ceilDiv_iff _ _ _ hd, Nat.mul_comm]; omega
  · omega

/-- From phase 0 it is the length of R259. -/
theorem keptBelow_zero (n : Nat) {d : Nat} (hd : 0 < d) : keptBelow 0 d n = ceilDiv n d :=
  eq_of_forall_lt_iff fun i => by rw [lt_keptBelow_iff _ _ _ hd, lt_ceilDiv_iff _ _ _ hd, Nat.zero_add, Nat.mul_comm]

/-! ### Two chunks -/

/-- The next phase is the distance from the chunk's end to the next kept position (40 R256). -/
theorem add_keptBelow (u numIn : Nat) {dph d : Nat} (hdph : dph < d) :
    dph + d * keptBelow dph d (u * numIn) = u * numIn + nextPhase dph u numIn d := by
  have hd : 0 < d := Nat.zero_lt_of_lt hdph
  have hend := lt_keptBelow_iff dph (u * numIn) (keptBelow dph d (u * numIn)) hd
  have hlast := lt_keptBelow_iff dph (u * numIn) (keptBelow dph d (u * numIn) - 1) hd
  obtain ⟨hphase, -⟩ := nextPhase_spec dph u numIn d hd
  rw [← Int.natCast_mul] at hphase
  generalize keptBelow dph d (u * numIn) = k at *
  generalize nextPhase dph u numIn d = e at *
  generalize u * numIn = n at *
  -- the last kept position is below the chunk's end, so what is left is a remainder by `d`
  obtain ⟨e', he'⟩ : ∃ e', dph + d * k = n + e' := Nat.exists_eq_add_of_le (by omega)
  have hlt : e' < d := by
    cases k with
    | zero => omega
    | succ k => rw [Nat.mul_succ] at he'; simp only [Nat.add_sub_cancel] at hlast; omega
  have hdiff : (dph : Int) - n = e' - d * k := by
    have hcast := congrArg (Nat.cast : Nat → Int) he'
    push_cast at hcast
    omega
  rw [hdiff, Int.sub_mul_emod_self_left, Int.emod_eq_of_lt (by omega) (by omega)] at hphase
  omega

/-- The kept positions of two chunks are those of the first and, from the phase it leaves, those of the second. -/
theorem keptBelow_add (u a n : Nat) {dph d : Nat} (hdph : dph < d) :
    keptBelow dph d (u * a + n) = keptBelow dph d (u * a) + keptBelow (nextPhase dph u a d) d n := by
  have hd : 0 < d := Nat.zero_lt_of_lt hdph
  refine eq_of_forall_lt_iff fun i => ?_
  have hfirst := lt_keptBelow_iff dph (u * a) i hd
  have hsecond := lt_keptBelow_iff (nextPhase dph u a d) n (i - keptBelow dph d (u * a)) hd
  have hend := add_keptBelow u a hdph
  rw [lt_keptBelow_iff _ _ _ hd]
  rcases Nat.lt_or_ge i (keptBelow dph d (u * a)) with hi | hi
  · omega
  · obtain ⟨i', rfl⟩ := Nat.exists_eq_add_of_le hi
    rw [Nat.add_sub_cancel_left] at hsecond
    rw [Nat.mul_add]
    omega

/-- The phase after two chunks is that after one as long as both (40 R256). -/
theorem nextPhase_add (dph u a b : Nat) {d : Nat} (hd : 0 < d) :
    nextPhase (nextPhase dph u a d) u b d = nextPhase dph u (a + b) d := by
  obtain ⟨hfirst, -⟩ := nextPhase_spec dph u a d hd
  obtain ⟨hsecond, -⟩ := nextPhase_spec (nextPhase dph u a d) u b d hd
  obtain ⟨hboth, -⟩ := nextPhase_spec dph u (a + b) d hd
  have heq : (nextPhase (nextPhase dph u a d) u b d : Int) = nextPhase dph u (a + b) d := by
    rw [hsecond, hfirst, hboth, Int.emod_sub_emod, Int.natCast_add, Int.mul_add, Int.sub_sub]
  exact_mod_cast heq

/-! ### The positions -/

/-- Position `j` survives decimation from phase `dph` (KEEP of 40 R255). -/
def keeps (dph d j : Nat) : Bool := decide (dph ≤ j ∧ (j - dph) % d = 0)

/-- The positions below `n` that KEEP lets pass are `DPH`, `DPH + D`, … (log 13). -/
theorem filter_keeps_range (dph n : Nat) {d : Nat} (hd : 0 < d) :
    (List.range n).filter (keeps dph d) = (List.range (keptBelow dph d n)).map (fun i => dph + d * i) := by
  induction n with
  | zero => rfl
  | succ n ih =>
    rw [List.range_succ, List.filter_append, ih]
    by_cases hn : dph ≤ n ∧ (n - dph) % d = 0
    · -- `n` is the next kept position, the one with the index `keptBelow dph d n`
      obtain ⟨i, hi⟩ := Nat.dvd_of_mod_eq_zero hn.2
      obtain rfl : n = dph + d * i := by omega
      have hcount : keptBelow dph d (dph + d * i) = i := eq_of_forall_lt_iff fun j => by
        rw [lt_keptBelow_iff _ _ _ hd, Nat.add_lt_add_iff_left, Nat.mul_lt_mul_left hd]
      have hcount' : keptBelow dph d (dph + d * i + 1) = i + 1 := eq_of_forall_lt_iff fun j => by
        rw [lt_keptBelow_iff _ _ _ hd, Nat.lt_succ_iff, Nat.add_le_add_iff_left, Nat.mul_le_mul_left_iff hd,
          Nat.lt_succ_iff]
      rw [hcount, hcount', List.range_succ, List.map_append, List.filter_singleton, keeps, decide_eq_true hn]
      rfl
    · have hcount : keptBelow dph d (n + 1) = keptBelow dph d n := eq_of_forall_lt_iff fun j => by
        have hne : dph + d * j ≠ n := by
          rintro rfl
          exact hn ⟨Nat.le_add_right _ _, by rw [Nat.add_sub_cancel_left, Nat.mul_mod_right]⟩
        rw [lt_keptBelow_iff _ _ _ hd, lt_keptBelow_iff _ _ _ hd]
        omega
      rw [hcount, List.filter_singleton, keeps, decide_eq_false hn]
      exact List.append_nil _

/-- The double loop over input positions and phases walks the upsampled positions in order (40 R267). -/
theorem flatMap_phases (keep : Nat → Bool) (numIn : Nat) {u : Nat} (hu : 0 < u) :
    (List.range numIn).flatMap (fun m =>
        ((List.range u).filter (fun p => keep (u * m + p))).map (fun p => (m, p))) =
      ((List.range (u * numIn)).filter keep).map (fun j => (j / u, j % u)) := by
  induction numIn with
  | zero => rfl
  | succ m ih =>
    rw [List.range_succ, List.flatMap_append, ih, Nat.mul_succ, List.range_add, List.filter_append, List.map_append,
      List.filter_map, List.map_map, List.flatMap_singleton]
    refine congrArg _ (List.map_congr_left fun p hp => ?_)
    have hlt : p < u := List.mem_range.1 (List.mem_filter.1 hp).1
    rw [Function.comp_apply, Nat.mul_add_div hu, Nat.div_eq_of_lt hlt, Nat.mul_add_mod, Nat.mod_eq_of_lt hlt,
      Nat.add_zero]

end Sys2Proof.Machine
end

section
/-! PROOFS. O26: FIRPOS and the decimated loop. -/

namespace Sys2Proof.Machine

/-- The samples computed are FIRPOS at the positions kept, numbered in their order. -/
theorem keptOutputs_eq_mapIdx (base : Nat) (r : Rse) (chunk : List Word) (hd : 0 < r.d.toNat) :
    keptOutputs base r chunk =
      (((List.range (r.u.toNat * chunk.length)).filter (keeps r.dph.toNat r.d.toNat)).map
        (fun j => (j / r.u.toNat, j % r.u.toNat))).mapIdx
        (fun i q => firPos (base + 2 * r.phl.toNat * i) r (r.hist ++ chunk) q.1 q.2) := by
  rw [filter_keeps_range _ _ hd, ← keptCount_eq_keptBelow]
  refine List.ext_getElem (by simp) fun i _ _ => ?_
  simp [keptOutputs]

/-- Settles O26: FIRPOS is the accumulation, and the positions kept are those of the double loop. -/
theorem keptOutputsAreTheDecimatedLoop : Obligations.KeptOutputsAreTheDecimatedLoop := by
  refine ⟨fun base r staged m p acc h0 hstep => ?accumulation, fun r hu hh => ?reach,
    fun base r chunk hu hd => ⟨?loop, ?count⟩⟩
  case accumulation => rw [firPos_eq_firAcc]; exact firAcc_unique h0 hstep
  case reach => rw [hh]; exact Nat.sub_le_sub_right (Nat.le_mul_of_pos_right _ hu) 1
  case loop =>
    rw [keptOutputs_eq_mapIdx base r chunk hd, ← flatMap_phases _ _ hu]
    rfl
  case count => exact keptOutputs_length base r chunk

end Sys2Proof.Machine
end

section
/-! PROOFS. O28: chunking (40 R284, R285). -/

namespace Sys2Proof.Machine

/-- The engine as a chunk leaves it, but for the delivery: the phase of R256 and the history of R257. -/
def afterChunk (r : Rse) (xs : List Word) : Rse :=
  { r with dph := resultU32 (nextPhase r.dph.toNat r.u.toNat xs.length r.d.toNat)
           hist := lastN r.h.toNat (r.hist ++ xs) }

theorem afterChunk_dph {r : Rse} (xs : List Word) (hd : 0 < r.d.toNat) :
    (afterChunk r xs).dph.toNat = nextPhase r.dph.toNat r.u.toNat xs.length r.d.toNat :=
  resultU32_toNat ((nextPhase_spec _ _ _ _ hd).2.trans r.d.isLt)

/-- The newest samples of a stream do not depend on what was forgotten of it before (40 R257). -/
theorem lastN_lastN_append (h : Nat) (xs ys : List Word) : lastN h (lastN h xs ++ ys) = lastN h (xs ++ ys) := by
  unfold lastN
  rw [← List.drop_append_of_le_length (Nat.sub_le _ _), List.drop_drop, List.length_drop, List.length_append]
  congr 1
  omega

/-- A full history and a chunk, staged, are the newest samples of the stream: the oldest ones are dropped, as many as
the chunk before had. -/
theorem afterChunk_staged {r : Rse} (xs ys : List Word) (hhist : r.hist.length = r.h.toNat) :
    (afterChunk r xs).hist ++ ys = (r.hist ++ (xs ++ ys)).drop xs.length := by
  have hdrop : (r.hist ++ xs).length - r.h.toNat = xs.length := by rw [List.length_append, hhist]; omega
  change lastN r.h.toNat (r.hist ++ xs) ++ ys = _
  rw [lastN, hdrop, ← List.append_assoc]
  exact (List.drop_append_of_le_length (by rw [List.length_append]; omega)).symm

/-- A filtered value reads no more of the engine than its sizes and its kernel. -/
theorem firPos_afterChunk (base : Nat) (r : Rse) (xs staged : List Word) (m p : Nat) :
    firPos base (afterChunk r xs) staged m p = firPos base r staged m p := rfl

/-- FIRPOS within the first chunk reads nothing of the second (40 R284). -/
theorem firPos_first_chunk (base base' : Nat) (r : Rse) {xs : List Word} (ys : List Word) {m : Nat} (p : Nat)
    (hm : m < xs.length) (hhist : r.hist.length = r.h.toNat) :
    sameSample (firPos base r (r.hist ++ xs) m p) (firPos base' r (r.hist ++ (xs ++ ys)) m p) := by
  rw [firPos_eq_firAcc, firPos_eq_firAcc]
  refine firAcc_same _ _ _ _ fun t _ => ?_
  have hlt : r.h.toNat + m - t < (r.hist ++ xs).length := by rw [List.length_append]; omega
  rw [← List.append_assoc, List.getD_append _ _ _ _ hlt]

/-- FIRPOS within the second chunk reads of the first what the history keeps (40 R284). -/
theorem firPos_second_chunk (base base' : Nat) {r : Rse} (xs ys : List Word) (m p : Nat)
    (hhist : r.hist.length = r.h.toNat) (hphl : r.phl.toNat ≤ r.h.toNat + 1) :
    sameSample (firPos base (afterChunk r xs) ((afterChunk r xs).hist ++ ys) m p)
      (firPos base' r (r.hist ++ (xs ++ ys)) (xs.length + m) p) := by
  rw [firPos_afterChunk, afterChunk_staged xs ys hhist, firPos_eq_firAcc, firPos_eq_firAcc]
  refine firAcc_same _ _ _ _ fun t ht => ?_
  rw [List.getD_eq_getElem?_getD, List.getElem?_drop, ← List.getD_eq_getElem?_getD]
  congr 1
  omega

/-- The samples computed for two chunks, the second by the engine that the first leaves. -/
theorem keptOutputs_append {r : Rse} (xs ys : List Word) (b1 b2 b3 : Nat) (hu : 0 < r.u.toNat)
    (hdph : r.dph.toNat < r.d.toNat) (hhist : r.hist.length = r.h.toNat) (hphl : r.phl.toNat ≤ r.h.toNat + 1) :
    List.Forall₂ sameSample (keptOutputs b1 r xs ++ keptOutputs b2 (afterChunk r xs) ys)
      (keptOutputs b3 r (xs ++ ys)) := by
  have hd : 0 < r.d.toNat := Nat.zero_lt_of_lt hdph
  have hphase := afterChunk_dph xs hd
  have hend := add_keptBelow r.u.toNat xs.length hdph
  have hcount : keptCount r (xs ++ ys).length = keptCount r xs.length + keptCount (afterChunk r xs) ys.length := by
    rw [keptCount_eq_keptBelow, keptCount_eq_keptBelow, keptCount_eq_keptBelow, hphase, List.length_append, Nat.mul_add,
      keptBelow_add _ _ _ hdph]
    rfl
  unfold keptOutputs
  rw [hcount, List.range_add, List.map_append, List.map_map]
  refine List.rel_append ?first ?second
  case first =>
    rw [List.forall₂_map_left_iff, List.forall₂_map_right_iff, List.forall₂_same]
    intro i hi
    have hlt := (lt_keptBelow_iff _ _ i hd).1 (List.mem_range.1 hi)
    exact firPos_first_chunk _ _ _ _ _ (Nat.div_lt_of_lt_mul hlt) hhist
  case second =>
    rw [List.forall₂_map_left_iff, List.forall₂_map_right_iff, List.forall₂_same]
    intro i _
    have hpos : r.dph.toNat + r.d.toNat * (keptCount r xs.length + i) =
        r.u.toNat * xs.length + ((afterChunk r xs).dph.toNat + r.d.toNat * i) := by
      rw [keptCount_eq_keptBelow, hphase, Nat.mul_add]
      omega
    simp only [Function.comp_apply]
    rw [hpos, Nat.mul_add_div hu, Nat.mul_add_mod]
    exact firPos_second_chunk _ _ xs ys _ _ hhist hphl

/-- Settles O28: the samples, the history and the phase of the stream, each continued over the chunk's end. -/
theorem chunkingDoesNotChangeTheStream : Obligations.ChunkingDoesNotChangeTheStream := by
  intro r xs ys b1 b2 b3 hu hdph hhist hphl
  refine ⟨keptOutputs_append xs ys b1 b2 b3 hu hdph hhist hphl, ?history, ?phase⟩
  case history => rw [← List.append_assoc]; exact lastN_lastN_append _ _ _
  case phase =>
    have hd : 0 < r.d.toNat := Nat.zero_lt_of_lt hdph
    rw [List.length_append, ← nextPhase_add _ _ _ _ hd]
    exact congrArg (nextPhase · r.u.toNat ys.length r.d.toNat) (afterChunk_dph xs hd)

end Sys2Proof.Machine
end

section
/-! SUPPORT. The negotiated sequence (41 R354): how many inputs it has taken after `k` blocks, and that it repeats. -/

namespace Sys2Proof.Machine

/-- The inputs that the negotiated sequence has taken after `k` blocks (40 R286: `I_k = ceil_div(k·N·D, U)`). -/
def inputsAfter (n u d k : Nat) : Nat := ceilDiv (k * n * d) u

theorem ceilDiv_mono {a a' : Nat} (b : Nat) (h : a ≤ a') : ceilDiv a b ≤ ceilDiv a' b :=
  Nat.div_le_div_right (by omega)

/-- Rounding up a sum gives at most the sum of what is rounded up. -/
theorem ceilDiv_add_le (a a' : Nat) {b : Nat} (hb : 0 < b) : ceilDiv (a + a') b ≤ ceilDiv a b + ceilDiv a' b := by
  rw [ceilDiv_le_iff _ _ _ hb, Nat.add_mul]
  exact Nat.add_le_add (le_ceilDiv_mul a b hb) (le_ceilDiv_mul a' b hb)

/-- The next due block ends with the inputs of `k + 1` blocks. -/
theorem inputsAfter_succ (n d k : Nat) {u : Nat} :
    inputsAfter n u d k + seqLen n u d k = inputsAfter n u d (k + 1) := by
  have hmono : ceilDiv (k * n * d) u ≤ ceilDiv ((k + 1) * n * d) u :=
    ceilDiv_mono u (Nat.mul_le_mul_right d (Nat.mul_le_mul_right n k.le_succ))
  unfold inputsAfter seqLen
  omega

/-- No block is due more inputs than INMAX (40 R261). -/
theorem seqLen_le (n d k : Nat) {u : Nat} (hu : 0 < u) : seqLen n u d k ≤ ceilDiv (n * d) u := by
  have h := ceilDiv_add_le (k * n * d) (n * d) hu
  rw [show k * n * d + n * d = (k + 1) * n * d by ring] at h
  unfold seqLen
  omega

/-- The blocks of a cycle take whole inputs (40 R258). -/
theorem dvd_cyc_mul (n u d : Nat) : u ∣ (negotiate n u d).cyc * (n * d) := by
  by_cases hr : n * d % u = 0
  · exact Dvd.dvd.mul_left (Nat.dvd_of_mod_eq_zero hr) _
  · have hcyc : (negotiate n u d).cyc = u / Nat.gcd (n * d % u) u := by simp only [negotiate, hr, if_false]
    have hgcd : Nat.gcd (n * d % u) u = Nat.gcd u (n * d) := (Nat.gcd_rec u (n * d)).symm
    rw [hcyc, hgcd, Nat.div_mul_right_comm (Nat.gcd_dvd_left u (n * d)),
      Nat.mul_div_assoc _ (Nat.gcd_dvd_right u (n * d))]
    exact Nat.dvd_mul_right _ _

/-- After a whole number of cycles the inputs taken are exactly those of the blocks given (40 R286). -/
theorem inputsAfter_cycles (n d k : Nat) {u : Nat} (hu : 0 < u) (hk : k % (negotiate n u d).cyc = 0) :
    u * inputsAfter n u d k = k * n * d := by
  have hdvd : u ∣ k * n * d := by
    rw [Nat.mul_assoc]
    exact (dvd_cyc_mul n u d).trans (Nat.mul_dvd_mul_right (Nat.dvd_of_mod_eq_zero hk) _)
  obtain ⟨c, hc⟩ := hdvd
  have hzero : ceilDiv 0 u = 0 := Nat.le_zero.1 (ceilDiv_le_self 0 hu)
  have hdiv := ceilDiv_add_mul 0 c hu
  rw [Nat.zero_add, hzero, Nat.zero_add, ← hc] at hdiv
  rw [inputsAfter, hdiv, hc]

/-- The sequence repeats after a cycle (41 R354). -/
theorem seqLen_mod_cyc (n d k : Nat) {u : Nat} (hu : 0 < u) :
    seqLen n u d (k % (negotiate n u d).cyc) = seqLen n u d k := by
  obtain ⟨w, hw⟩ := dvd_cyc_mul n u d
  generalize (negotiate n u d).cyc = cyc at *
  have hshift : ∀ i, ceilDiv ((i + cyc * (k / cyc)) * n * d) u = ceilDiv (i * n * d) u + w * (k / cyc) := by
    intro i
    rw [← ceilDiv_add_mul _ _ hu, ← Nat.mul_assoc u, ← hw]
    congr 1
    ring
  have hk := hshift (k % cyc)
  have hk' := hshift (k % cyc + 1)
  rw [Nat.add_right_comm] at hk'
  rw [Nat.mod_add_div] at hk hk'
  unfold seqLen
  omega

/-- The outputs of the inputs taken after `k` blocks are at least the blocks' own, and at most OFFMAX more (40 R286). -/
theorem outputs_range (n k : Nat) {u d : Nat} (hu : 0 < u) (hd : 0 < d) :
    k * n ≤ ceilDiv (u * inputsAfter n u d k) d ∧
    ceilDiv (u * inputsAfter n u d k) d ≤ k * n + ceilDiv u d := by
  have hle : k * n * d ≤ inputsAfter n u d k * u := le_ceilDiv_mul _ _ hu
  have hlt : inputsAfter n u d k * u < k * n * d + u := ceilDiv_mul_lt _ _ hu
  have hu' := le_ceilDiv_mul u d hd
  rw [Nat.mul_comm u]
  constructor
  · exact Nat.le_of_mul_le_mul_right (hle.trans (le_ceilDiv_mul _ d hd)) hd
  · rw [ceilDiv_le_iff _ _ _ hd, Nat.add_mul]
    omega

end Sys2Proof.Machine
end

section
/-! PROOFS. O29: the negotiated sequence neither underruns nor overflows (40 R286). -/

namespace Sys2Proof.Machine

/-- From the carry and the phase after `k` blocks, the samples available for the next block of the sequence are the
outputs of all inputs taken with it, less those of the `k` blocks. -/
theorem available_length {s : State} {n u d k : Nat} (hu : s.rse.u.toNat = u) (hd : s.rse.d.toNat = d) (hu1 : 0 < u)
    (hd1 : 0 < d)
    (hcarry : s.rse.carrybuf.length = ceilDiv (u * inputsAfter n u d k) d - k * n)
    (hdph : s.rse.dph.toNat = nextPhase 0 u (inputsAfter n u d k) d) :
    (available (seqLen n u d k) s).length = ceilDiv (u * inputsAfter n u d (k + 1)) d - k * n := by
  have hadd := keptBelow_add u (inputsAfter n u d k) (u * seqLen n u d k) hd1
  rw [← Nat.mul_add, inputsAfter_succ, keptBelow_zero _ hd1, keptBelow_zero _ hd1] at hadd
  obtain ⟨hle, -⟩ := outputs_range n k hu1 hd1
  rw [available, List.length_append, keptOutputs_length, readBlock_length, keptCount_eq_keptBelow, hcarry,
    hdph, hu, hd, hadd]
  omega

/-- The phase after `I` inputs from phase 0, as R286 writes it. -/
theorem nextPhase_zero_spec (u numIn : Nat) {d : Nat} (hd : 0 < d) :
    (nextPhase 0 u numIn d : Int) = (-((u * numIn : Nat) : Int)) % d := by
  rw [(nextPhase_spec 0 u numIn d hd).1, Nat.cast_zero, zero_sub, Int.natCast_mul]

/-- Settles O29: the samples available are N and at most OFFMAX more, and both counts continue over the block. -/
theorem negotiatedChunksNeverUnderrunOrOverflow : Obligations.NegotiatedChunksNeverUnderrunOrOverflow := by
  intro s k n u d hm hb hn hu hd hu1 hd1 hinmax hoffmax hcarry hdph hnumIn
  have hphase : s.rse.dph.toNat = nextPhase 0 u (inputsAfter n u d k) d := by
    have h := nextPhase_zero_spec u (inputsAfter n u d k) hd1
    exact_mod_cast hdph.trans h.symm
  have hdue : s.arg.a0.toNat = seqLen n u d k := hnumIn.trans (seqLen_mod_cyc n d k hu1)
  have hlen := available_length hu hd hu1 hd1 hcarry hphase
  obtain ⟨hlow, hhigh⟩ := outputs_range n (k + 1) hu1 hd1
  have hexec := exec_rseApply_of_filter hm hb (hdue.trans_le ((seqLen_le n d k hu1).trans hinmax.ge))
  obtain ⟨hcount, hbound⟩ := applyFilter_carry s.arg.a0.toNat s
  have hcarry' : (applyFilter s.arg.a0.toNat s).rse.carry.toNat =
      ceilDiv (u * inputsAfter n u d (k + 1)) d - (k + 1) * n := by
    rw [hcount, applyFilter_carrybuf, List.length_take, List.length_drop, hdue, hlen, hn, hoffmax]
    rw [Nat.succ_mul] at hlow hhigh ⊢
    omega
  have hphase' : (applyFilter s.arg.a0.toNat s).rse.dph.toNat = nextPhase 0 u (inputsAfter n u d (k + 1)) d := by
    rw [applyFilter_dph _ (hd ▸ hd1), hphase, hu, hd, hdue, nextPhase_add _ _ _ _ hd1, inputsAfter_succ]
  refine ⟨_, hexec, ?flags, hcarry', hcount.symm, hcount ▸ hbound, ?phase, fun hcyc => ?cycle⟩
  case flags =>
    have hunr : ¬(available s.arg.a0.toNat s).length < s.rse.n.toNat := by
      rw [hdue, hlen, hn]
      rw [Nat.succ_mul] at hlow
      omega
    have hovr : ¬s.rse.n.toNat + s.rse.offmax.toNat < (available s.arg.a0.toNat s).length := by
      rw [hdue, hlen, hn, hoffmax]
      rw [Nat.succ_mul] at hhigh
      omega
    rw [applyFilter_status, decide_eq_false hunr, decide_eq_false hovr, Bool.or_false, Bool.or_false]
  case phase => rw [hphase']; exact nextPhase_zero_spec _ _ hd1
  case cycle =>
    have hexact := inputsAfter_cycles n d (k + 1) hu1 hcyc
    constructor
    · refine BitVec.eq_of_toNat_eq (hcarry'.trans ?_)
      have hceil := (ceilDiv_le_iff (u * inputsAfter n u d (k + 1)) d ((k + 1) * n) hd1).2 hexact.le
      exact Nat.sub_eq_zero_of_le hceil
    · refine BitVec.eq_of_toNat_eq (hphase'.trans ?_)
      have hspec := nextPhase_zero_spec u (inputsAfter n u d (k + 1)) hd1
      rw [hexact, Int.emod_eq_zero_of_dvd (Int.dvd_neg.2 (Int.natCast_dvd_natCast.2 (Nat.dvd_mul_left d _)))] at hspec
      exact_mod_cast hspec

end Sys2Proof.Machine
end

section
/-! SUPPORT. The values of the negotiated sequence (41 R354, R355): each block is due the least or the greatest length,
and the lengths of the first `k` blocks are the inputs taken with them. -/

namespace Sys2Proof.Machine

/-- The first `k` due lengths make up the inputs taken after `k` blocks (41 R355(d)). -/
theorem sum_seqLen (n d k : Nat) {u : Nat} (hu : 0 < u) :
    ((List.range k).map (seqLen n u d)).sum = inputsAfter n u d k := by
  induction k with
  | zero =>
    have hzero : ceilDiv 0 u = 0 := Nat.le_zero.1 (ceilDiv_le_self 0 hu)
    simp [inputsAfter, hzero]
  | succ k ih =>
    rw [List.range_succ, List.map_append, List.sum_append, ih, List.map_singleton, List.sum_singleton, inputsAfter_succ]

/-- Every block is due at least the floor of `N·D/U`. -/
theorem le_seqLen (n d k : Nat) {u : Nat} (hu : 0 < u) : n * d / u ≤ seqLen n u d k := by
  have hstep : ceilDiv (k * n * d) u + n * d / u ≤ ceilDiv ((k + 1) * n * d) u := by
    rw [← ceilDiv_add_mul _ _ hu]
    refine ceilDiv_mono u ?_
    calc k * n * d + u * (n * d / u) ≤ k * n * d + n * d := Nat.add_le_add_left (Nat.mul_div_le _ _) _
      _ = (k + 1) * n * d := by ring
  unfold seqLen
  omega

/-- The greatest length is the least one, and one more where the ratio leaves a remainder (40 R258). -/
theorem negotiate_max_eq (n d : Nat) {u : Nat} (hu : 0 < u) :
    (negotiate n u d).max = (negotiate n u d).min + if n * d % u = 0 then 0 else 1 := by
  rw [(negotiate_sizes n d hu).2.1, (negotiate_counts n d hu).1, ceilDiv_eq_div_add _ hu]

/-- A cycle is made of the blocks of both lengths (40 R258). -/
theorem negotiate_cyc_eq (n d : Nat) {u : Nat} (hu : 0 < u) :
    (negotiate n u d).cyc = (negotiate n u d).nummin + (negotiate n u d).nummax := by
  by_cases hr : n * d % u = 0
  · simp only [negotiate, hr, if_true]
  · have hle : n * d % u / Nat.gcd (n * d % u) u ≤ u / Nat.gcd (n * d % u) u :=
      Nat.div_le_div_right (Nat.mod_lt _ hu).le
    simp only [negotiate, hr, if_false]
    omega

/-- Every block is due one of the two negotiated lengths (41 R355(a)). -/
theorem seqLen_eq_min_or_max (n d k : Nat) {u : Nat} (hu : 0 < u) :
    seqLen n u d k = (negotiate n u d).min ∨ seqLen n u d k = (negotiate n u d).max := by
  have hlow := le_seqLen n d k hu
  have hhigh := seqLen_le n d k hu
  rw [← (negotiate_counts n d hu).1] at hlow
  rw [← (negotiate_sizes n d hu).2.1] at hhigh
  have hmax := negotiate_max_eq n d hu
  split at hmax <;> omega

/-- The first block is due the greatest length (41 R355(e)). -/
theorem seqLen_zero (n d : Nat) {u : Nat} (hu : 0 < u) : seqLen n u d 0 = (negotiate n u d).max := by
  have h := inputsAfter_succ n d 0 (u := u)
  rw [← sum_seqLen n d 0 hu, List.range_zero, List.map_nil, List.sum_nil, Nat.zero_add, Nat.zero_add] at h
  rw [h, (negotiate_sizes n d hu).2.1, inputsAfter, Nat.one_mul]

/-- The lengths of a cycle add up to its ideal (41 R355(c)). -/
theorem sum_seqLen_cycle (n d : Nat) {u : Nat} (hu : 0 < u) :
    u * ((List.range (negotiate n u d).cyc).map (seqLen n u d)).sum = (negotiate n u d).cyc * n * d := by
  rw [sum_seqLen n d _ hu]
  exact inputsAfter_cycles n d _ hu (Nat.mod_self _)

/-- A sum of values that are each `a` or `a + 1` counts the greater ones. -/
theorem sum_map_eq_mul_add_count {f : Nat → Nat} {a : Nat} (xs : List Nat) (hf : ∀ x, f x = a ∨ f x = a + 1) :
    (xs.map f).sum = xs.length * a + (xs.filter (fun x => f x == a + 1)).length := by
  induction xs with
  | nil => simp
  | cons x xs ih =>
    rcases hf x with h | h <;> simp [h, ih, Nat.succ_mul] <;> omega

/-- Of a cycle's blocks, NUMMAX are due the greatest length, where the two differ (41 R355(b)). -/
theorem count_seqLen_max (n d : Nat) {u : Nat} (hu : 0 < u) (hne : (negotiate n u d).min ≠ (negotiate n u d).max) :
    ((List.range (negotiate n u d).cyc).filter (fun k => seqLen n u d k == (negotiate n u d).max)).length =
      (negotiate n u d).nummax := by
  have hmax : (negotiate n u d).max = (negotiate n u d).min + 1 := by
    have h := negotiate_max_eq n d hu
    split at h <;> omega
  have hcount := sum_map_eq_mul_add_count (List.range (negotiate n u d).cyc)
    (fun k => hmax ▸ seqLen_eq_min_or_max n d k hu)
  have hsum : ((List.range (negotiate n u d).cyc).map (seqLen n u d)).sum =
      (negotiate n u d).nummin * (negotiate n u d).min + (negotiate n u d).nummax * (negotiate n u d).max := by
    refine Nat.eq_of_mul_eq_mul_left hu ?_
    rw [sum_seqLen_cycle n d hu, negotiate_exact n d hu, negotiate_cyc_eq n d hu, Nat.mul_assoc]
  rw [hsum, List.length_range, negotiate_cyc_eq n d hu, hmax, Nat.add_mul, Nat.mul_succ] at hcount
  rw [hmax, negotiate_cyc_eq n d hu]
  omega

end Sys2Proof.Machine
end

section
/-! PROOFS. O37, O38: RRC_NEXT and the negotiated sequence. -/

namespace Sys2Proof.Machine

/-- Settles O37: the due length is at most the block's chunk, and the moved cursor is below CYC, so both fit. -/
theorem rrcNextGivesTheDueLength : Obligations.RrcNextGivesTheDueLength := by
  intro s
  rcases exec_rrcNext_cases s with ⟨hv, hexec⟩ | ⟨hv, hexec⟩
  · exact ⟨fun _ => hexec, fun hv' => absurd (hv.symm.trans hv') (by decide)⟩
  · refine ⟨fun hv' => absurd (hv.symm.trans hv') (by decide), fun _ hu hcyc hfit => ⟨_, hexec, rfl, ?due, ?cursor⟩⟩
    case due => exact resultU32_toNat ((seqLen_le _ _ _ hu).trans_lt hfit)
    case cursor => exact resultU32_toNat ((Nat.mod_lt _ hcyc).trans s.rrc.cyc.isLt)

/-- Settles O38: the first `k` lengths telescope to a ceiling, and the counts follow from the sum over a cycle. -/
theorem negotiatedSequenceProperties : Obligations.NegotiatedSequenceProperties := by
  intro n u d hu
  obtain ⟨hmin, hwhole, hpart⟩ := negotiate_counts n d hu
  have hmax := negotiate_max_eq n d hu
  have hcyc := negotiate_cyc_eq n d hu
  rw [hmin] at hmax
  refine ⟨hmin, fun hr => ?whole, fun hr => ?part, fun k => seqLen_eq_min_or_max n d k hu, count_seqLen_max n d hu,
    sum_seqLen_cycle n d hu, fun k => ⟨sum_seqLen n d k hu, ?_, ?_⟩, seqLen_zero n d hu⟩
  case whole =>
    obtain ⟨hnummin, hnummax⟩ := hwhole hr
    exact ⟨by rwa [if_pos hr] at hmax, hnummin, hnummax, by rw [hcyc, hnummin, hnummax]⟩
  case part =>
    obtain ⟨hnummax, hblocks⟩ := hpart hr
    exact ⟨by rwa [if_neg hr] at hmax, hcyc ▸ hblocks, hnummax, hcyc.symm⟩
  · rw [Nat.mul_comm u]; exact le_ceilDiv_mul _ _ hu
  · rw [Nat.mul_comm u]; exact ceilDiv_mul_lt _ _ hu

end Sys2Proof.Machine
end

section
/-! SUPPORT. RRC_CONFIG by its guards (41 R350 to R353, R356, R358): the clamped and reduced factors, the kernel that the
request writes to KMEM, and what stands after a configured and after a failed engine. -/

namespace Sys2Proof.Machine

/-! ### Factors -/

/-- The clamp of R352, case by case. -/
theorem clampFactor_eq_clamped (x : Int) : clampFactor x = Spec.clamped x := by
  unfold clampFactor Spec.clamped
  split
  · omega
  · split <;> omega

/-- The greater of two clamped factors (R352). -/
theorem max_clampFactor_range {x y : Int} {m : Nat} (hm : m = Nat.max (clampFactor x) (clampFactor y)) :
    1 ≤ m ∧ m ≤ 4 := by
  obtain ⟨hx1, hx4⟩ := clampFactor_range x
  obtain ⟨-, hy4⟩ := clampFactor_range y
  exact hm ▸ ⟨hx1.trans (Nat.le_max_left ..), Nat.max_le.2 ⟨hx4, hy4⟩⟩

/-- Factors of at least 1 are divided by their greatest common divisor alone (40 R251). -/
theorem reduce_of_pos {up down m u d : Nat} (hup : 1 ≤ up) (hdown : 1 ≤ down) (hm : m = Nat.max up down)
    (hu : u = up / Nat.gcd up down) (hd : d = down / Nat.gcd up down) :
    reduce up down = (u, d) ∧ (1 ≤ u ∧ u ≤ m) ∧ (1 ≤ d ∧ d ≤ m) := by
  have hup' : Nat.max up 1 = up := Nat.max_eq_left hup
  have hdown' : Nat.max down 1 = down := Nat.max_eq_left hdown
  have hreduce : reduce up down = (u, d) := by simp only [reduce, hup', hdown', hu, hd]
  obtain ⟨hu1, hd1, -⟩ := hreduce ▸ reduce_spec up down
  subst hm
  exact ⟨hreduce, ⟨hu1, hu ▸ (Nat.div_le_self _ _).trans (Nat.le_max_left ..)⟩,
    ⟨hd1, hd ▸ (Nat.div_le_self _ _).trans (Nat.le_max_right ..)⟩⟩

/-! ### The kernel of a request -/

theorem kromTaps_length (p : Params) {k : Nat} (hk : k ≤ 2) : (kromTaps p k).length = 41 + 20 * k := by
  interval_cases k <;> simp [kromTaps]

/-- A kernel has one tap for 1:1, and else the length of its table (00_scope R11, 41 R358). -/
theorem selectedKernel_length (p : Params) (base : Nat) {uc dc m : Nat} (hm : m = Nat.max uc dc) (h1 : 1 ≤ m)
    (h4 : m ≤ 4) :
    (selectedKernel p base uc dc).length = if m = 1 then 1 else 41 + 20 * (m - 2) := by
  unfold selectedKernel
  rw [← hm]
  split
  · rw [if_pos (by omega), List.length_singleton]
  · rw [if_neg (by omega), List.length_mapIdx, kromTaps_length p (by omega)]

/-- Its taps: 1.0 alone for 1:1, and else the table's, each scaled by the up factor (41 R351, R358). -/
theorem selectedKernel_getD (p : Params) {base uc dc m i : Nat} (hm : m = Nat.max uc dc) (h1 : 1 ≤ m)
    (hi : i < (selectedKernel p base uc dc).length) :
    (selectedKernel p base uc dc).getD i 0 =
      if m = 1 then 0x3F800000 else F32.mul (base + i) ((kromTaps p (m - 2)).getD i 0) (F32.ofInt uc) := by
  unfold selectedKernel at *
  rw [← hm] at *
  split at hi
  · next hle =>
    obtain rfl : i = 0 := Nat.lt_one_iff.1 hi
    rw [if_pos hle, if_pos (by omega)]
    rfl
  · next hgt =>
    rw [List.length_mapIdx] at hi
    rw [if_neg hgt, if_neg (by omega)]
    simp [hi]

/-! ### The request -/

/-- The kernel that RRC_CONFIG writes to KMEM. -/
def requestedKernel (s : State) : List Word :=
  selectedKernel s.inst s.draws (clampFactor s.arg.a0.toInt) (clampFactor s.arg.a1.toInt)

/-- The state in which RRC_CONFIG initialises the engine (41 R351). -/
abbrev requested (s : State) : State := rrcPrepare s.arg.a0 s.arg.a1 s

/-- The initialisation that RRC_CONFIG asks for (41 R351). -/
def requestedInit (s : State) : Except State State :=
  engineInit (clampFactor s.arg.a0.toInt) (clampFactor s.arg.a1.toInt) s.arg.a2.toNat (requestedKernel s).length
    (requested s)

/-- The requested kernel's length, which fits KMEM under legal parameters (00_scope R9, R11), and its taps. -/
theorem requestedKernel_spec {s : State} (hp : s.inst.legal = true) {m : Nat}
    (hm : m = Nat.max (clampFactor s.arg.a0.toInt) (clampFactor s.arg.a1.toInt)) :
    (requestedKernel s).length = (if m = 1 then 1 else 41 + 20 * (m - 2)) ∧
    (requestedKernel s).length ≤ s.inst.capKmax.toNat ∧
    (∀ i, i < (requestedKernel s).length → (requestedKernel s).getD i 0 =
      if m = 1 then 0x3F800000
      else F32.mul (s.draws + i) ((kromTaps s.inst (m - 2)).getD i 0) (F32.ofInt (clampFactor s.arg.a0.toInt))) := by
  obtain ⟨h1, h4⟩ := max_clampFactor_range hm
  have hlen := selectedKernel_length s.inst s.draws hm h1 h4
  refine ⟨hlen, ?fits, fun i hi => selectedKernel_getD s.inst hm h1 hi⟩
  simp only [Params.legal, Params.kmaxLegal, Bool.and_eq_true, decide_eq_true_eq] at hp
  rw [requestedKernel, hlen]
  split <;> omega

theorem exec_rrcConfig_of_ok {s t : State} (h : requestedInit s = .ok t) :
    exec .rrcConfig s = .next { t with rrc := rrcNegotiated s.arg.a2.toNat t.rrc t.rse } := by
  rcases rrcSetup_cases s.arg.a0 s.arg.a1 s.arg.a2.toNat s with ⟨t', hinit, hsetup⟩ | ⟨t', hinit, -⟩
  · obtain rfl : t = t' := Except.ok.inj (h.symm.trans hinit)
    rcases exec_rrcConfig_cases s with ⟨t'', hok, hexec⟩ | ⟨t'', herr, -⟩
    · rw [hexec, Except.ok.inj (hok.symm.trans hsetup)]
    · cases herr.symm.trans hsetup
  · cases h.symm.trans hinit

theorem exec_rrcConfig_of_error {s t : State} (h : requestedInit s = .error t) :
    exec .rrcConfig s = .next (raiseIn .einitcap .rrcConfig t) := by
  rcases rrcSetup_cases s.arg.a0 s.arg.a1 s.arg.a2.toNat s with ⟨t', hinit, -⟩ | ⟨t', hinit, hsetup⟩
  · cases h.symm.trans hinit
  · obtain rfl : t = t' := Except.error.inj (h.symm.trans hinit)
    rcases exec_rrcConfig_cases s with ⟨t'', hok, -⟩ | ⟨t'', herr, hexec⟩
    · cases hok.symm.trans hsetup
    · rw [hexec, Except.error.inj (herr.symm.trans hsetup)]

/-- The RRC registers after a request: SEL is 0 for 1:1, where `m - 2` is 0 too (41 R351). -/
theorem rrcPrepare_rrc (upW downW : Word) (s : State) {m : Nat}
    (hm : m = Nat.max (clampFactor upW.toInt) (clampFactor downW.toInt)) :
    (rrcPrepare upW downW s).rrc =
      { s.rrc with upreq := upW, downreq := downW, upc := resultU32 (clampFactor upW.toInt),
                   downc := resultU32 (clampFactor downW.toInt), bypsel := decide (m = 1),
                   sel := BitVec.ofNat 2 (m - 2) } := by
  obtain ⟨h1, -⟩ := max_clampFactor_range hm
  have hbyp : decide (m ≤ 1) = decide (m = 1) := decide_eq_decide.2 (by omega)
  have hsel : (if decide (m = 1) = true then 0 else BitVec.ofNat 2 (m - 2)) = BitVec.ofNat 2 (m - 2) := by
    split
    · next h => rw [of_decide_eq_true h]; rfl
    · rfl
  simp only [rrcPrepare, operandS32, ← hm, hbyp, hsel]

/-- CLAMP after a request is set where a factor was clamped (41 R352). -/
theorem statusClamp_factors (st : Status) (up down : Int) :
    statusClamp st (factorsClamped up down) =
      { st with clamp := st.clamp || decide ((clampFactor up : Int) ≠ up) ||
                          decide ((clampFactor down : Int) ≠ down) } := by
  rw [Bool.or_assoc]
  rfl

/-- KMEM after a request holds the kernel, and no byte outside it changes (41 R351). -/
theorem kmem_after_request {s : State} (hfit : (requestedKernel s).length ≤ s.inst.capKmax.toNat) :
    (∀ i, i < (requestedKernel s).length → readElem (requested s) .kmem i = (requestedKernel s).getD i 0) ∧
    (∀ a, Spec.outside .kmem (requestedKernel s).length a → byteAt (requested s) a = byteAt s a) := by
  constructor
  · intro i hi
    have helem := readElem_writeBlock_inside s .kmem (by decide) 0 i (requestedKernel s) hi
      (by rw [Nat.zero_add]; exact hi.trans_le hfit)
    rw [Nat.zero_add] at helem
    rw [readElem_congr (writeBlock s .kmem 0 (requestedKernel s)) (requested s) rfl (rrcPrepare_mem ..) rfl, helem,
      List.getD_eq_getElem _ _ hi]
  · intro a ha
    have hmin : Nat.min (requestedKernel s).length (windowDepth s.inst .kmem - 0) = (requestedKernel s).length :=
      Nat.min_eq_left hfit
    exact byteAt_writeBlock_outside s .kmem 0 (requestedKernel s) a (by rw [hmin]; exact ha)

/-- The requested kernel is the identity for 1:1 alone (40 R252). -/
theorem identKernel_requested_iff {s : State} (hp : s.inst.legal = true) {m : Nat}
    (hm : m = Nat.max (clampFactor s.arg.a0.toInt) (clampFactor s.arg.a1.toInt)) :
    identKernel (requested s) (requestedKernel s).length = true ↔ m = 1 := by
  obtain ⟨hlen, hfit, htaps⟩ := requestedKernel_spec hp hm
  obtain ⟨hkmem, -⟩ := kmem_after_request hfit
  rw [identKernel_iff]
  by_cases h1 : m = 1
  · rw [if_pos h1] at hlen
    have hunit := hkmem 0 (by omega)
    rw [htaps 0 (by omega), if_pos h1] at hunit
    exact iff_of_true (.inr ⟨hlen, hunit⟩) h1
  · rw [if_neg h1] at hlen
    exact iff_of_false (by omega) h1

/-! ### The three ends of the initialisation -/

/-- Under legal parameters the history has room for the longest kernel at its ratio (00_scope R9, 40 R261). -/
theorem kernel_history_fits {p : Params} (hp : p.legal = true) {m u : Nat} (h2 : 2 ≤ m) (h4 : m ≤ 4) (hu1 : 1 ≤ u)
    (hum : u ≤ m) : ceilDiv (41 + 20 * (m - 2)) u * u - 1 ≤ p.capHist.toNat := by
  have hlt := ceilDiv_mul_lt (41 + 20 * (m - 2)) u hu1
  simp only [Params.legal, Params.histLegal, Bool.and_eq_true, decide_eq_true_eq] at hp
  omega

section Ratio

variable {s : State} {m u d klen : Nat} (hp : s.inst.legal = true)
  (hm : m = Nat.max (clampFactor s.arg.a0.toInt) (clampFactor s.arg.a1.toInt))
  (hu : u = clampFactor s.arg.a0.toInt / Nat.gcd (clampFactor s.arg.a0.toInt) (clampFactor s.arg.a1.toInt))
  (hd : d = clampFactor s.arg.a1.toInt / Nat.gcd (clampFactor s.arg.a0.toInt) (clampFactor s.arg.a1.toInt))
  (hlen : (requestedKernel s).length = klen)

include hm hu hd in
/-- The ratio of a request (40 R251, 41 R352). -/
theorem requested_ratio :
    reduce (clampFactor s.arg.a0.toInt) (clampFactor s.arg.a1.toInt) = (u, d) ∧ (1 ≤ u ∧ u ≤ m) ∧ (1 ≤ d ∧ d ≤ m) :=
  reduce_of_pos (clampFactor_range _).1 (clampFactor_range _).1 hm hu hd

include hp hm hu hd hlen

/-- A request with a table whose block fits (41 R351, 40 R261). -/
theorem requestedInit_of_filter (h2 : 2 ≤ m) (hin : ceilDiv (s.arg.a2.toNat * d) u ≤ s.inst.capIn.toNat)
    (hout : s.arg.a2.toNat + ceilDiv u d ≤ s.inst.capOut.toNat) :
    requestedInit s = .ok (configureEngine (requested s) false u d s.arg.a2.toNat klen (ceilDiv klen u)
      (ceilDiv klen u * u - 1) (ceilDiv (s.arg.a2.toNat * d) u) (ceilDiv u d)) := by
  have hne : ¬m = 1 := by omega
  obtain ⟨-, h4⟩ := max_clampFactor_range hm
  obtain ⟨hreduce, ⟨hu1, hum⟩, -⟩ := requested_ratio hm hu hd
  obtain ⟨hlen', hfit, -⟩ := requestedKernel_spec hp hm
  have hident := (identKernel_requested_iff hp hm).not.2 hne
  have hhist := kernel_history_fits hp h2 h4 hu1 hum
  rw [if_neg hne] at hlen'
  rw [← hlen', hlen] at hhist
  rw [hlen] at hfit hident
  have h := engineInit_of_filter (up := clampFactor s.arg.a0.toInt) (down := clampFactor s.arg.a1.toInt)
    (n := s.arg.a2.toNat) (s := requested s) hfit fun h => hident h.2.2
  rw [hreduce] at h
  rw [requestedInit, hlen]
  exact h hhist hin hout

/-- A request whose block exceeds CAP_IN or CAP_OUT: neither success has its guards (41 R351, 40 R262). -/
theorem requestedInit_of_over
    (hover : s.inst.capIn.toNat < ceilDiv (s.arg.a2.toNat * d) u ∨
      s.inst.capOut.toNat < if m = 1 then s.arg.a2.toNat else s.arg.a2.toNat + ceilDiv u d) :
    requestedInit s = .error (failEngine (requested s)) := by
  obtain ⟨hreduce, ⟨hu1, hum⟩, ⟨hd1, hdm⟩⟩ := requested_ratio hm hu hd
  have hident := identKernel_requested_iff hp hm
  rw [hlen] at hident
  rw [requestedInit, hlen]
  have hcases := engineInit_cases (clampFactor s.arg.a0.toInt) (clampFactor s.arg.a1.toInt) s.arg.a2.toNat klen
    (requested s)
  simp only [hreduce, hident, rrcPrepare_inst] at hcases
  rcases hcases with ⟨-, hu', hd', h1, hin, hout, -⟩ | ⟨-, hfilter, -, hin, hout, -⟩ | herr
  · rw [if_pos h1, hu', hd', Nat.mul_one, ceilDiv_one] at hover
    omega
  · rw [if_neg (fun h1 => hfilter ⟨by omega, by omega, h1⟩)] at hover
    omega
  · exact herr

end Ratio

/-! ### A configured request -/

/-- The state after a request whose engine was configured (41 R351). -/
def configuredRequest (s : State) (byp : Bool) (u d klen phl h inmax offmax : Nat) : State :=
  let t := configureEngine (requested s) byp u d s.arg.a2.toNat klen phl h inmax offmax
  { t with rrc := rrcNegotiated s.arg.a2.toNat t.rrc t.rse }

theorem exec_rrcConfig_of_configured {s : State} {byp : Bool} {u d klen phl h inmax offmax : Nat}
    (hinit : requestedInit s = .ok (configureEngine (requested s) byp u d s.arg.a2.toNat klen phl h inmax offmax)) :
    exec .rrcConfig s = .next (configuredRequest s byp u d klen phl h inmax offmax) :=
  exec_rrcConfig_of_ok hinit

/-- Its stores, whichever the engine's mode: KMEM and KL hold the kernel, every element of OUT is +0.0, and no other byte
of the memory changes (41 R351, 40 R261). -/
theorem configuredRequest_stores {s : State} (hp : s.inst.legal = true) {klen : Nat}
    (hlen : (requestedKernel s).length = klen) (byp : Bool) (u d phl h inmax offmax : Nat) {t : State}
    (ht : t = configuredRequest s byp u d klen phl h inmax offmax) :
    t = { s with status := t.status, rse := t.rse, rrc := t.rrc, mem := t.mem, draws := t.draws } ∧
    (∀ i, i < klen → readElem t .kmem i = (requestedKernel s).getD i 0) ∧
    t.rse.kl = Spec.elements t .kmem klen ∧
    (∀ i, i < s.inst.capOut.toNat → readElem t .out i = 0) ∧
    (∀ a, Spec.outside .kmem klen a → Spec.outside .out s.inst.capOut.toNat a → byteAt t a = byteAt s a) := by
  subst ht hlen
  obtain ⟨-, hfit, -⟩ := requestedKernel_spec hp rfl
  obtain ⟨hkmem, hbytes⟩ := kmem_after_request hfit
  obtain ⟨-, hkl, hout, hbytes'⟩ :=
    configureEngine_stores (requested s) byp u d s.arg.a2.toNat (requestedKernel s).length phl h inmax offmax rfl
  have hkeeps : KeepsWindow .kmem (requested s)
      (configuredRequest s byp u d (requestedKernel s).length phl h inmax offmax) :=
    .of_writeBlock hp (by decide) rfl rfl rfl
  refine ⟨rfl, fun i hi => (hkeeps.readElem_eq i).trans (hkmem i hi), ?kl, hout,
    fun a hk ho => (hbytes' a ho).trans (hbytes a hk)⟩
  exact hkl.trans (List.map_congr_left fun i _ => (hkeeps.readElem_eq i).symm)

/-- Its RRC registers: the request, the kernel choice and the negotiation at the engine's ratio (41 R351, R353). -/
theorem configuredRequest_rrc {s : State} {m u d : Nat} {g : Negotiation}
    (hm : m = Nat.max (clampFactor s.arg.a0.toInt) (clampFactor s.arg.a1.toInt)) (hu : u < 2 ^ 32) (hd : d < 2 ^ 32)
    (hg : g = negotiate s.arg.a2.toNat u d) (byp : Bool) (klen phl h inmax offmax : Nat) :
    (configuredRequest s byp u d klen phl h inmax offmax).rrc =
      { valid := true, bypsel := decide (m = 1), sel := BitVec.ofNat 2 (m - 2), upreq := s.arg.a0, downreq := s.arg.a1,
        upc := resultU32 (clampFactor s.arg.a0.toInt), downc := resultU32 (clampFactor s.arg.a1.toInt),
        nblk := s.arg.a2, min := resultU32 g.min, max := resultU32 g.max, nummin := resultU32 g.nummin,
        nummax := resultU32 g.nummax, cyc := resultU32 g.cyc, cur := 0 } := by
  have hblk : resultU32 s.arg.a2.toNat = s.arg.a2 := resultU32_operandU32 s.arg.a2
  simp only [configuredRequest, rrcNegotiated, configureEngine_rrc, configureEngine_rse, invalidateRrc,
    rrcPrepare_rrc s.arg.a0 s.arg.a1 s hm, resultU32_toNat hu, resultU32_toNat hd, hblk, hg]

/-- At 1:1 every block takes its own length (40 R258). -/
theorem negotiate_unit (n : Nat) : negotiate n 1 1 = { min := n, max := n, nummin := 1, nummax := 0, cyc := 1 } := by
  simp [negotiate, Nat.mod_one]

/-- The negotiation's numbers fit their registers where the block's chunk does. -/
theorem negotiate_fits {n u d : Nat} (hu1 : 0 < u) (hu : u < 2 ^ 32) (hmax : ceilDiv (n * d) u < 2 ^ 32) {g : Negotiation}
    (hg : g = negotiate n u d) :
    (resultU32 g.min).toNat = n * d / u ∧ (resultU32 g.max).toNat = ceilDiv (n * d) u ∧
    (resultU32 g.nummin).toNat = g.nummin ∧ (resultU32 g.nummax).toNat = g.nummax ∧ (resultU32 g.cyc).toNat = g.cyc := by
  obtain ⟨hle, hceil, hnummin, hnummax, -, hcyc⟩ := negotiate_sizes n d hu1
  obtain ⟨hmin, -⟩ := negotiate_counts n d hu1
  rw [← hg] at hle hceil hnummin hnummax hcyc hmin
  rw [← hceil] at hmax
  rw [← hceil, ← hmin]
  exact ⟨resultU32_toNat (hle.trans_lt hmax), resultU32_toNat hmax, resultU32_toNat (hnummin.trans_lt hu),
    resultU32_toNat (hnummax.trans_lt hu), resultU32_toNat (hcyc.trans_lt hu)⟩

end Sys2Proof.Machine
end

section
/-! PROOFS. O34 to O36: what RRC_CONFIG builds with a kernel and without one, and where it fails. -/

namespace Sys2Proof.Machine

/-- SEL holds the number of the table (10_state R71). -/
theorem sel_toNat {m : Nat} (h4 : m ≤ 4) : (BitVec.ofNat 2 (m - 2)).toNat = m - 2 := by
  rw [BitVec.toNat_ofNat]
  omega

/-- Settles O34: the engine filters at the reduced ratio, and every register holds its value whole. -/
theorem rrcConfigBuildsTheFilter : Obligations.RrcConfigBuildsTheFilter := by
  rintro s uc dc m g u d n klen phl hp huc hdc hm h2 rfl hu hd rfl hklen rfl hin hout
  obtain rfl := huc.trans (clampFactor_eq_clamped _).symm
  obtain rfl := hdc.trans (clampFactor_eq_clamped _).symm
  have hne : ¬m = 1 := by omega
  obtain ⟨-, hup4⟩ := clampFactor_range s.arg.a0.toInt
  obtain ⟨-, hdown4⟩ := clampFactor_range s.arg.a1.toInt
  obtain ⟨-, h4⟩ := max_clampFactor_range hm
  obtain ⟨-, ⟨hu1, hum⟩, ⟨hd1, hdm⟩⟩ := requested_ratio hm hu hd
  obtain ⟨hlen, -, htaps⟩ := requestedKernel_spec hp hm
  rw [if_neg hne, ← hklen] at hlen
  rw [hlen] at htaps
  have hhist := hklen ▸ kernel_history_fits hp h2 h4 hu1 hum
  have hinit := requestedInit_of_filter hp hm hu hd hlen h2 hin hout
  obtain ⟨hframe, hkmem, hkl, hzero, hbytes⟩ := configuredRequest_stores hp hlen false u d _ _ _ _ rfl
  have hrrc := configuredRequest_rrc (u := u) (d := d) hm (by omega) (by omega) rfl false klen (ceilDiv klen u)
    (ceilDiv klen u * u - 1) (ceilDiv (s.arg.a2.toNat * d) u) (ceilDiv u d)
  obtain ⟨hmin, hmax, hnummin, hnummax, hcyc⟩ :=
    negotiate_fits hu1 (by omega) (Nat.lt_of_le_of_lt hin s.inst.capIn.isLt) rfl
  rw [decide_eq_false hne] at hrrc
  refine ⟨_, exec_rrcConfig_of_configured hinit, hframe, statusClamp_factors .., ?engine, fun i hi => ?taps, hkl, hzero,
    hbytes, ?rrc, ?registers⟩
  case engine =>
    exact freshEngine_configureEngine _ false (by omega) (by omega) s.arg.a2.isLt (by omega)
      ((ceilDiv_le_self klen hu1).trans_lt (by omega)) (hhist.trans_lt s.inst.capHist.isLt)
      (Nat.lt_of_le_of_lt hin s.inst.capIn.isLt) ((ceilDiv_le_self u hd1).trans_lt (by omega))
  case taps => rw [hkmem i hi, htaps i hi, if_neg hne]
  case rrc => rw [hrrc]
  case registers =>
    rw [hrrc]
    exact ⟨sel_toNat h4, resultU32_toNat (by omega), resultU32_toNat (by omega), hmin, hmax, hnummin, hnummax, hcyc⟩

/-- Settles O35: factors that clamp to 1:1 ask for the unit tap, which is the identity kernel. -/
theorem rrcConfigBuildsTheBypass : Obligations.RrcConfigBuildsTheBypass := by
  rintro s n hp hup hdown rfl hin hout
  rw [← clampFactor_eq_clamped] at hup hdown
  have hm : 1 = Nat.max (clampFactor s.arg.a0.toInt) (clampFactor s.arg.a1.toInt) := by rw [hup, hdown]; rfl
  obtain ⟨hlen, hfit, htaps⟩ := requestedKernel_spec hp hm
  rw [if_pos rfl] at hlen
  rw [hlen] at hfit htaps
  have hinit : requestedInit s = .ok (configureEngine (requested s) true 1 1 s.arg.a2.toNat 1 0 0 s.arg.a2.toNat 0) := by
    have hident : identKernel (requested s) 1 = true := hlen ▸ (identKernel_requested_iff hp hm).2 rfl
    rw [requestedInit, hlen, hup, hdown]
    exact engineInit_of_bypass hfit rfl rfl hident hin hout
  obtain ⟨hframe, hkmem, hkl, hzero, hbytes⟩ := configuredRequest_stores hp hlen true 1 1 0 0 s.arg.a2.toNat 0 rfl
  have hrrc := configuredRequest_rrc hm (by decide) (by decide) (negotiate_unit s.arg.a2.toNat).symm true 1 0 0
    s.arg.a2.toNat 0
  have hclamp := statusClamp_factors s.status s.arg.a0.toInt s.arg.a1.toInt
  simp only [hup, hdown, Nat.cast_one, ne_comm (a := (1 : Int))] at hclamp
  have htap := hkmem 0 Nat.one_pos
  rw [htaps 0 Nat.one_pos, if_pos rfl] at htap
  have hblk : resultU32 s.arg.a2.toNat = s.arg.a2 := resultU32_operandU32 s.arg.a2
  refine ⟨_, exec_rrcConfig_of_configured hinit, hframe, hclamp, ?engine, htap, ?kl, hzero, hbytes, ?rrc⟩
  case engine =>
    exact freshEngine_configureEngine _ true (by decide) (by decide) s.arg.a2.isLt (by decide) (by decide) (by decide)
      s.arg.a2.isLt (by decide)
  case kl =>
    rw [hkl]
    exact congrArg (fun w => [w]) htap
  case rrc =>
    rw [hrrc, hup, hdown, hblk]
    rfl

/-- Settles O36: the request stands in the state whose initialisation fails, and the failure stores nothing. -/
theorem rrcConfigOverCapacityFails : Obligations.RrcConfigOverCapacityFails := by
  rintro s uc dc m g u d n klen hp huc hdc hm rfl hu hd rfl hklen hover
  obtain rfl := huc.trans (clampFactor_eq_clamped _).symm
  obtain rfl := hdc.trans (clampFactor_eq_clamped _).symm
  obtain ⟨-, hup4⟩ := clampFactor_range s.arg.a0.toInt
  obtain ⟨-, hdown4⟩ := clampFactor_range s.arg.a1.toInt
  obtain ⟨-, h4⟩ := max_clampFactor_range hm
  obtain ⟨hlen, hfit, htaps⟩ := requestedKernel_spec hp hm
  obtain ⟨hkmem, hbytes⟩ := kmem_after_request hfit
  rw [← hklen] at hlen
  rw [hlen] at htaps hkmem hbytes
  have hinit := requestedInit_of_over hp hm hu hd hlen hover
  have hrrc := congrArg invalidateRrc (rrcPrepare_rrc s.arg.a0 s.arg.a1 s hm)
  have helem := readElem_congr (requested s) (raiseIn .einitcap .rrcConfig (failEngine (requested s))) rfl rfl rfl .kmem
  refine ⟨_, exec_rrcConfig_of_error hinit, rfl, ?status, ?rrc, ?upc, ?downc, ?sel, fun i hi => ?taps, hbytes⟩
  case status =>
    rw [← statusClamp_factors]
    rfl
  case rrc =>
    rw [raiseIn_rrc, failEngine_rrc, hrrc]
    rfl
  case upc => exact resultU32_toNat (n := clampFactor s.arg.a0.toInt) (by omega)
  case downc => exact resultU32_toNat (n := clampFactor s.arg.a1.toInt) (by omega)
  case sel =>
    rw [raiseIn_rrc, failEngine_rrc, hrrc]
    exact sel_toNat h4
  case taps => rw [helem, hkmem i hi, htaps i hi]

end Sys2Proof.Machine
end

section
/-! PROOFS. O39, O41 to O43: the commands of ENV that write registers alone (42_envelope R400 to R409, R446). -/

namespace Sys2Proof.Machine

/-- A duration is capped below the sign bit of a register (42 R402). -/
theorem secToSamples_lt (x fs : Word) : secToSamples x fs < 2 ^ 31 := by
  unfold secToSamples
  split
  · decide
  split
  · decide
  split
  · decide
  · exact (Nat.min_le_right _ _).trans_lt (by decide)

/-- A latched sample count is the converted duration, whole. -/
theorem resultU32_secToSamples_toNat (x fs : Word) : (resultU32 (secToSamples x fs)).toNat = secToSamples x fs :=
  resultU32_toNat ((secToSamples_lt x fs).trans (by decide))

/-- NS is what the other phases leave of the buffer, or 0 (42 R403). -/
theorem envLatch_ns_toNat (e : Env) :
    (envLatch e).ns.toNat = (envLatch e).len.toNat - (envLatch e).na.toNat - (envLatch e).nd.toNat -
      (envLatch e).nr.toNat := by
  have hle : e.slen.toNat - secToSamples e.atkP e.fs - secToSamples e.decP e.fs - secToSamples e.relP e.fs <
      2 ^ 32 := by
    have := e.slen.isLt
    omega
  simp only [envLatch, resultU32_secToSamples_toNat, resultU32_toNat hle]

/-- Settles O39: every count fits its register, and NS is the rest of the buffer. -/
theorem envOnLatchesAndStarts : Obligations.EnvOnLatchesAndStarts := by
  intro s
  have hns := envLatch_ns_toNat s.env
  refine ⟨_, rfl, rfl, resultU32_secToSamples_toNat .., resultU32_secToSamples_toNat ..,
    resultU32_secToSamples_toNat .., resultU32_secToSamples_toNat .., ?_⟩
  change ((envLatch s.env).ns.toNat : Int) = max (((envLatch s.env).len.toNat : Int) - (envLatch s.env).na.toNat -
    (envLatch s.env).nd.toNat - (envLatch s.env).nr.toNat) 0
  omega

/-- Settles O41: the two ends of ENV_OFF, the second by NF. -/
theorem envOffEntersFadeoutOrFinishes : Obligations.EnvOffEntersFadeoutOrFinishes := by
  intro s
  rcases exec_envOff_cases s with ⟨hidle, hexec⟩ | ⟨hruns, hexec⟩
  · exact ⟨fun hfade hfin => (hidle.elim hfade hfin).elim, fun hfade hfin => (hidle.elim hfade hfin).elim,
      fun _ => hexec⟩
  · refine ⟨fun _ _ hnf => ?fades, fun _ _ hnf => ?finishes, fun hidle => absurd hidle hruns⟩
    case fades => rw [hexec, if_neg hnf]; rfl
    case finishes => rw [hexec, if_pos hnf]; rfl

/-- Settles O42: each setter is its register update. -/
theorem envSettersWriteThePendingParameters : Obligations.EnvSettersWriteThePendingParameters := fun _ => ⟨rfl, rfl⟩

/-- Settles O43: with the cursor in the buffer the difference does not wrap. -/
theorem envRemainGivesTheUnplayedSamples : Obligations.EnvRemainGivesTheUnplayedSamples := by
  intro s
  exact ⟨_, rfl, rfl, fun hcursor => BitVec.toNat_sub_of_le (BitVec.le_def.2 hcursor)⟩

end Sys2Proof.Machine
end

section
/-! PROOFS. O40: the conversion of durations (42_envelope R402, 70_reset R583). -/

namespace Sys2Proof.Machine

/-- A finite datum is positive where its sign is clear and its magnitude is not 0. -/
theorem F32.value_pos_iff (w : Word) : 0 < F32.value w ↔ F32.sign w = false ∧ F32.mag w ≠ 0 := by
  have hu := F32.unit_cast_pos
  rw [F32.value_eq_mag]
  cases F32.sign w
  · have hmag : (0 : ℚ) < F32.mag w / F32.unit ↔ F32.mag w ≠ 0 := by
      rw [div_pos_iff_of_pos_right hu, Nat.cast_pos, Nat.pos_iff_ne_zero]
    simpa [F32.signFactor] using hmag
  · have hmag : (0 : ℚ) ≤ F32.mag w / F32.unit := by positivity
    simpa [F32.signFactor] using hmag

/-- A positive finite duration at any rate: the floor of its magnitude's product, capped (42 R402); at rate 0 the
product is 0. -/
theorem secToSamples_of_finite {x : Word} (fs : Word) (hfin : F32.isFinite x = true) (hsign : F32.sign x = false) :
    secToSamples x fs = Nat.min (F32.mag x * fs.toNat / F32.unit) (2 ^ 31 - 1) := by
  unfold secToSamples
  rw [F32.isNaN_of_isFinite hfin, hsign, F32.isInf_of_isFinite hfin]
  by_cases hfs : fs = 0
  · subst hfs
    simp
  · rw [if_neg (by decide), if_neg hfs, if_neg (by decide)]

/-- The floor of the exact product is the quotient of whole numbers. -/
theorem F32.floor_value_mul {x : Word} (n : Nat) (hsign : F32.sign x = false) :
    ⌊F32.value x * (n : ℚ)⌋ = ((F32.mag x * n / F32.unit : Nat) : Int) := by
  have hvalue : F32.value x * (n : ℚ) = ((F32.mag x * n : Nat) : ℚ) / (F32.unit : ℚ) := by
    rw [F32.value_eq_mag, hsign]
    push_cast [F32.signFactor]
    ring
  rw [hvalue, ← Int.natCast_floor_eq_floor (by positivity), Nat.floor_div_natCast, Nat.floor_natCast]

/-- Settles O40: the classes of a duration, by its sign and its magnitude. -/
theorem secondsConvertByFloor : Obligations.SecondsConvertByFloor := by
  intro x fs
  refine ⟨fun hnan => ?nan, fun _ hsign => ?negInf, fun hinf hsign hfs => ?posInf, fun hfin hle => ?nonpos,
    fun hfin hpos => ?pos, ?rateZero⟩
  case nan => simp [secToSamples, hnan]
  case negInf => simp [secToSamples, hsign]
  case posInf =>
    have hne : fs ≠ 0 := by rintro rfl; exact absurd hfs (by decide)
    rw [secToSamples, F32.isNaN_of_isInf hinf, hsign, if_neg (by decide), if_neg hne, if_pos hinf]
  case nonpos =>
    rw [← not_lt, F32.value_pos_iff, not_and, not_not] at hle
    cases hsign : F32.sign x
    · rw [secToSamples_of_finite fs hfin hsign, hle hsign]
      simp
    · simp [secToSamples, hsign]
  case pos =>
    obtain ⟨hsign, -⟩ := (F32.value_pos_iff x).1 hpos
    rw [secToSamples_of_finite fs hfin hsign, F32.floor_value_mul fs.toNat hsign]
    exact Nat.cast_min _ _
  case rateZero => simp [secToSamples]

end Sys2Proof.Machine
end

section
/-! SUPPORT. Exact results of binary32 (00_scope R15): a value of at most 24 bits in some weight of the format is a
datum, and an operation whose exact result is a datum gives its value. -/

namespace Sys2Proof.Machine

/-- A mantissa of 24 bits has its magnitude among the data, at any weight of the format. -/
theorem F32.exists_bitsMag_eq (k : Nat) {m : Nat} (hm : m < 2 ^ 24) :
    ∃ b, b < k * 2 ^ 23 + 2 ^ 24 ∧ F32.bitsMag b = m * 2 ^ k := by
  induction k generalizing m with
  | zero =>
    have hmag := F32.bitsMag_mantissa (sh := 0) hm.le (.inl rfl)
    rw [Nat.zero_mul, Nat.zero_add] at hmag
    exact ⟨m, by omega, hmag⟩
  | succ k ih =>
    rcases Nat.lt_or_ge m (2 ^ 23) with hlt | hge
    · obtain ⟨b, hb, hmag⟩ := ih (m := 2 * m) (by omega)
      exact ⟨b, hb.trans (by omega), by rw [hmag, Nat.pow_succ, Nat.mul_comm 2 m, Nat.mul_assoc, Nat.mul_comm 2]⟩
    · exact ⟨(k + 1) * 2 ^ 23 + m, by omega, F32.bitsMag_mantissa hm.le (.inr hge)⟩

/-- A value of at most 24 bits in a weight of the format is a datum. -/
theorem F32.exists_value_eq (neg : Bool) {m k : Nat} (hm : m < 2 ^ 24) (hk : k ≤ 253) :
    ∃ v, F32.isFinite v = true ∧ F32.value v = F32.signFactor neg * ((m * 2 ^ k : Nat) / F32.unit) := by
  obtain ⟨b, hb, hmag⟩ := F32.exists_bitsMag_eq k hm
  have hbits : F32.bits (F32.pack neg b) = b := F32.bits_pack neg (by omega)
  refine ⟨F32.pack neg b, ?_, ?_⟩
  · rw [F32.isFinite_iff, hbits]
    omega
  · rw [F32.value_eq_mag, F32.mag_eq_bitsMag, F32.sign_pack, hbits, hmag]

/-- Where a datum has the exact value, the nearest datum has it too. -/
theorem F32.value_of_nearest {q : ℚ} {v w : Word} (h : Spec.nearest q w) (hq : |q| < 2 ^ 128 - 2 ^ 103)
    (hfin : F32.isFinite v = true) (hv : F32.value v = q) : F32.isFinite w = true ∧ F32.value w = q := by
  rw [Spec.nearest, if_pos hq] at h
  obtain ⟨hw, hnear⟩ := h
  obtain ⟨hle, -⟩ := hnear v hfin
  rw [hv, sub_self, abs_zero, abs_nonpos_iff, sub_eq_zero] at hle
  exact ⟨hw, hle.symm⟩

/-- Whole numbers of up to 24 bits over a power of 2 are rounded to themselves. -/
theorem F32.value_of_nearest_div {n : Int} (hn : n.natAbs < 2 ^ 24) {j : Nat} (hj : j ≤ 149) {w : Word}
    (h : Spec.nearest ((n : ℚ) / 2 ^ j) w) : F32.isFinite w = true ∧ F32.value w = (n : ℚ) / 2 ^ j := by
  obtain ⟨v, hfin, hv⟩ := F32.exists_value_eq (decide (n < 0)) hn (k := 149 - j) (by omega)
  refine F32.value_of_nearest h ?_ hfin ?_
  · have habs : |(n : ℚ)| < 2 ^ 24 := by
      rw [← Int.cast_abs, Int.abs_eq_natAbs]
      exact_mod_cast hn
    have hpow : (1 : ℚ) ≤ 2 ^ j := one_le_pow₀ (by norm_num)
    calc |(n : ℚ) / 2 ^ j| = |(n : ℚ)| / 2 ^ j := by rw [abs_div, abs_of_pos (by positivity : (0 : ℚ) < 2 ^ j)]
      _ ≤ |(n : ℚ)| := div_le_self (abs_nonneg _) hpow
      _ < 2 ^ 128 - 2 ^ 103 := habs.trans (by norm_num)
  · have hunit : (F32.unit : ℚ) = 2 ^ (149 - j) * 2 ^ j := by
      rw [← pow_add, Nat.sub_add_cancel hj, F32.unit]
      push_cast
      rfl
    rw [hv, F32.intCast_eq_signFactor n, hunit]
    push_cast
    field_simp

/-- The conversion of a whole number of up to 24 bits is exact. -/
theorem F32.ofInt_exact {n : Int} (hn : n.natAbs < 2 ^ 24) :
    F32.isFinite (F32.ofInt n) = true ∧ F32.value (F32.ofInt n) = n := by
  have h := F32.value_of_nearest_div hn (j := 0) (by decide) (by simpa using F32.nearest_ofInt n)
  simpa using h

end Sys2Proof.Machine
end

section
/-! PROOFS. O54: the conversion of sample codes (42_envelope R423). -/

namespace Sys2Proof.Machine

/-- The divisor of a code (42 R423). -/
def codeDivisor (c : Code) : Int := if c.toInt < 0 then 32768 else 32767

theorem convCode_eq_div (c : Code) :
    convCode c = F32.div 0 (F32.ofInt c.toInt) (F32.ofInt (codeDivisor c)) := by
  unfold convCode codeDivisor
  split <;> rfl

/-- Code and divisor are exact, so the division is the one rounding. -/
theorem nearest_convCode (c : Code) : Spec.nearest ((c.toInt : ℚ) / codeDivisor c) (convCode c) := by
  have hcode : c.toInt.natAbs < 2 ^ 24 := by
    have := c.le_toInt
    have := c.toInt_lt
    omega
  have hdivisor : 0 < codeDivisor c ∧ (codeDivisor c).natAbs < 2 ^ 24 := by
    unfold codeDivisor
    split <;> decide
  obtain ⟨hpos, hlt⟩ := hdivisor
  obtain ⟨hcodeFin, hcodeVal⟩ := F32.ofInt_exact hcode
  obtain ⟨hdivFin, hdivVal⟩ := F32.ofInt_exact hlt
  have hne : F32.value (F32.ofInt (codeDivisor c)) ≠ 0 := by
    rw [hdivVal]
    exact_mod_cast hpos.ne'
  have h := (F32.div_finite 0 hcodeFin hdivFin hne).2
  rwa [hcodeVal, hdivVal, ← convCode_eq_div] at h

/-- Settles O54: a quotient by 32768 of a code is a datum, so the rounding keeps it. -/
theorem sampleCodesConvert : Obligations.SampleCodesConvert := by
  refine ⟨fun c hc => ?nonneg, fun c hc => ?neg, by decide, by decide, by decide⟩
  case nonneg =>
    have h := nearest_convCode c
    rwa [codeDivisor, if_neg (Int.not_lt.2 hc)] at h
  case neg =>
    have h := nearest_convCode c
    rw [codeDivisor, if_pos hc, show (((32768 : Int) : ℚ)) = 2 ^ 15 by norm_num] at h
    have hcode : c.toInt.natAbs < 2 ^ 24 := by
      have := c.le_toInt
      omega
    have hexact := F32.value_of_nearest_div hcode (by decide) h
    rwa [show ((2 : ℚ) ^ 15) = 32768 by norm_num] at hexact

end Sys2Proof.Machine
end

section
/-! SUPPORT. The search behind FACTOR (42_envelope R410, log 11): the bisection ends at a pattern whose midpoints with
its two neighbours enclose the root, and such a pattern is the nearest datum. -/

namespace Sys2Proof.Machine

/-! ### The bisection -/

/-- The bisection ends between its bounds, with the midpoint before its result below the root and the one after it not,
but for midpoints outside the bounds. -/
theorem rootSearch_spec (k fuel : Nat) {lo hi : Nat} (hle : lo ≤ hi) (hfuel : hi - lo < 2 ^ fuel) :
    lo ≤ rootSearch k fuel lo hi ∧ rootSearch k fuel lo hi ≤ hi ∧
    (lo < rootSearch k fuel lo hi → belowRoot k (midpoint28 (rootSearch k fuel lo hi - 1)) = true) ∧
    (rootSearch k fuel lo hi < hi → belowRoot k (midpoint28 (rootSearch k fuel lo hi)) = false) := by
  induction fuel generalizing lo hi with
  | zero =>
    rw [pow_zero] at hfuel
    simp only [rootSearch]
    exact ⟨Nat.le_refl _, hle, fun h => absurd h (Nat.lt_irrefl _), fun h => by omega⟩
  | succ fuel ih =>
    rw [Nat.pow_succ] at hfuel
    generalize 2 ^ fuel = width at *
    unfold rootSearch
    by_cases hlt : lo < hi
    · simp only [if_pos hlt]
      cases hmid : belowRoot k (midpoint28 ((lo + hi) / 2))
      · simp only [Bool.false_eq_true, if_false]
        obtain ⟨hge, hle', hbelow, habove⟩ := ih (lo := lo) (hi := (lo + hi) / 2) (by omega) (by omega)
        refine ⟨hge, by omega, hbelow, fun _ => ?_⟩
        rcases hle'.lt_or_eq with h | h
        · exact habove h
        · rw [h, hmid]
      · simp only [if_true]
        obtain ⟨hge, hle', hbelow, habove⟩ := ih (lo := (lo + hi) / 2 + 1) (hi := hi) (by omega) (by omega)
        refine ⟨by omega, hle', fun _ => ?_, habove⟩
        rcases hge.lt_or_eq with h | h
        · exact hbelow h
        · rw [← h, Nat.add_sub_cancel, hmid]
    · simp only [if_neg hlt]
      exact ⟨Nat.le_refl _, hle, fun h => absurd h (Nat.lt_irrefl _), fun h => absurd h hlt⟩

/-! ### Midpoints -/

/-- From 1/16 on, magnitudes are multiples of `2^122` units (00_scope R15). -/
theorem F32.two_pow_dvd_bitsMag {b : Nat} (hb : 123 * 2 ^ 23 ≤ b) : 2 ^ 122 ∣ F32.bitsMag b := by
  have hexp : 122 ≤ b / 2 ^ 23 - 1 := by omega
  exact (pow_dvd_pow 2 hexp).trans (Nat.dvd_mul_left _ _)

theorem F32.mag_ofNat {b : Nat} (hb : b < 2 ^ 31) : F32.mag (BitVec.ofNat 32 b) = F32.bitsMag b := by
  have hbits : F32.bits (BitVec.ofNat 32 b) = b := by
    rw [F32.bits, BitVec.toNat_ofNat]
    omega
  rw [F32.mag_eq_bitsMag, hbits]

/-- `midpoint28` is exact: its unit `2^-28` is `2^122` of the half units `2^-150` of the format. -/
theorem midpoint28_mul {b : Nat} (hlo : 123 * 2 ^ 23 ≤ b) (hhi : b < 0x3F800000) :
    midpoint28 b * 2 ^ 122 = F32.bitsMag b + F32.bitsMag (b + 1) := by
  unfold midpoint28
  rw [F32.mag_ofNat (by omega), F32.mag_ofNat (by omega)]
  exact Nat.div_mul_cancel (Nat.dvd_add (F32.two_pow_dvd_bitsMag hlo) (F32.two_pow_dvd_bitsMag (by omega)))

/-- The pattern 0x3F800000 is 1.0. -/
theorem F32.bitsMag_one : F32.bitsMag 0x3F800000 = 2 ^ 149 := by norm_num [F32.bitsMag]

theorem midpoint28_le {b : Nat} (hlo : 123 * 2 ^ 23 ≤ b) (hhi : b < 0x3F800000) : midpoint28 b ≤ 2 ^ 28 := by
  have hmono := F32.bitsMag_strictMono.monotone
  have hlower := hmono hhi.le
  have hupper : F32.bitsMag (b + 1) ≤ F32.bitsMag 0x3F800000 := hmono hhi
  have hmul := midpoint28_mul hlo hhi
  rw [F32.bitsMag_one] at hlower hupper
  refine Nat.le_of_mul_le_mul_right (c := 2 ^ 122) ?_ (by decide)
  rw [hmul]
  omega

/-! ### The root -/

/-- The exact value of FACTOR (42 R410), where it is not rounded. -/
noncomputable def factorRoot (n : Nat) : ℝ := Real.exp (Real.log (1 / 100) / (n + 1))

theorem factorRoot_pos (n : Nat) : 0 < factorRoot n := Real.exp_pos _

/-- It is the root of 0.01 of degree `n + 1`. -/
theorem factorRoot_pow (n : Nat) : factorRoot n ^ (n + 1) = 1 / 100 := by
  have hne : ((n : ℝ) + 1) ≠ 0 := by positivity
  rw [factorRoot, ← Real.exp_nat_mul]
  push_cast
  rw [mul_div_cancel₀ _ hne, Real.exp_log (by norm_num)]

/-- For a budget of at least 1 it lies in [0.1, 1). -/
theorem factorRoot_range {n : Nat} (hn : 1 ≤ n) : 1 / 10 ≤ factorRoot n ∧ factorRoot n < 1 := by
  have hpow := factorRoot_pow n
  constructor
  · refine le_of_pow_le_pow_left₀ (n := n + 1) (by omega) (factorRoot_pos n).le ?_
    calc ((1 : ℝ) / 10) ^ (n + 1) ≤ (1 / 10) ^ 2 :=
          pow_le_pow_of_le_one (by norm_num) (by norm_num) (by omega)
      _ = 1 / 100 := by norm_num
      _ = factorRoot n ^ (n + 1) := hpow.symm
  · refine lt_of_pow_lt_pow_left₀ (n + 1) zero_le_one ?_
    rw [hpow, one_pow]
    norm_num

/-- `belowRoot` compares with it. -/
theorem belowRoot_iff_lt_factorRoot (n : Nat) {num : Nat} (hnum : num ≤ 2 ^ 28) :
    belowRoot (n + 1) num = true ↔ (num : ℝ) / 2 ^ 28 < factorRoot n := by
  have hscale : (0 : ℝ) < 2 ^ (28 * (n + 1)) := by positivity
  rw [belowRoot_iff _ _ hnum, ← pow_lt_pow_iff_left₀ (by positivity) (factorRoot_pos n).le (Nat.succ_ne_zero n),
    factorRoot_pow, div_pow, ← pow_mul, div_lt_div_iff₀ hscale (by norm_num), one_mul, mul_comm]
  exact_mod_cast Iff.rfl

/-- The root in units of `2^-149`, against the midpoint after a pattern. -/
theorem belowRoot_midpoint28_iff (n : Nat) {b : Nat} (hlo : 123 * 2 ^ 23 ≤ b) (hhi : b < 0x3F800000) :
    belowRoot (n + 1) (midpoint28 b) = true ↔
      ((F32.bitsMag b : ℝ) + F32.bitsMag (b + 1)) / 2 < factorRoot n * 2 ^ 149 := by
  have hmul : (midpoint28 b : ℝ) * 2 ^ 122 = F32.bitsMag b + F32.bitsMag (b + 1) := by
    exact_mod_cast midpoint28_mul hlo hhi
  rw [belowRoot_iff_lt_factorRoot n (midpoint28_le hlo hhi), ← hmul, div_lt_iff₀ (by positivity),
    div_lt_iff₀ (by norm_num)]
  constructor <;> intro h <;> linarith

/-! ### The nearest datum -/

/-- Where the midpoints with both neighbours enclose a value, no pattern is nearer. -/
theorem F32.bitsMag_nearest {x : ℝ} {b : Nat}
    (hlow : ((F32.bitsMag (b - 1) : ℝ) + F32.bitsMag b) / 2 ≤ x)
    (hhigh : x ≤ ((F32.bitsMag b : ℝ) + F32.bitsMag (b + 1)) / 2) (c : Nat) :
    |x - F32.bitsMag b| ≤ |x - F32.bitsMag c| := by
  have hmono : ∀ {i j : Nat}, i ≤ j → (F32.bitsMag i : ℝ) ≤ F32.bitsMag j := fun h => by
    exact_mod_cast F32.bitsMag_strictMono.monotone h
  have hprev := hmono (Nat.sub_le b 1)
  have hnext := hmono (Nat.le_succ b)
  rw [Nat.succ_eq_add_one] at hnext
  rcases lt_trichotomy c b with h | rfl | h
  · have hc := hmono (show c ≤ b - 1 by omega)
    refine (abs_le.2 ⟨?_, ?_⟩).trans (le_abs_self _) <;> linarith
  · exact le_refl _
  · have hc := hmono (show b + 1 ≤ c by omega)
    rw [abs_sub_comm x (F32.bitsMag c : ℝ)]
    refine (abs_le.2 ⟨?_, ?_⟩).trans (le_abs_self _) <;> linarith

/-- The pattern that the search for FACTOR gives: positive and at most 1.0, and the root lies between its midpoints. -/
theorem rootSearch_encloses {n b : Nat} (hn : 1 ≤ n) (hb : b = rootSearch (n + 1) 25 0x3DCCCCCC 0x3F800000) :
    0x3DCCCCCC ≤ b ∧ b ≤ 0x3F800000 ∧
    ((F32.bitsMag (b - 1) : ℝ) + F32.bitsMag b) / 2 ≤ factorRoot n * 2 ^ 149 ∧
    factorRoot n * 2 ^ 149 ≤ ((F32.bitsMag b : ℝ) + F32.bitsMag (b + 1)) / 2 := by
  obtain ⟨hlo, hhi, hbelow, habove⟩ := rootSearch_spec (n + 1) 25 (lo := 0x3DCCCCCC) (hi := 0x3F800000)
    (by decide) (by decide)
  rw [← hb] at hlo hhi hbelow habove
  obtain ⟨hroot, hroot'⟩ := factorRoot_range hn
  have hmono : ∀ {i j : Nat}, i ≤ j → (F32.bitsMag i : ℝ) ≤ F32.bitsMag j := fun h => by
    exact_mod_cast F32.bitsMag_strictMono.monotone h
  refine ⟨hlo, hhi, ?low, ?high⟩
  case low =>
    rcases hlo.lt_or_eq with h | h
    · have hlt := (belowRoot_midpoint28_iff n (b := b - 1) (by omega) (by omega)).1 (hbelow h)
      rw [Nat.sub_add_cancel (by omega)] at hlt
      exact hlt.le
    · -- the least pattern of the search is itself below 0.1
      have hprev := hmono (Nat.sub_le b 1)
      have hmag : F32.bitsMag b = 13421772 * 2 ^ 122 := by rw [← h]; norm_num [F32.bitsMag]
      have hmag' : (F32.bitsMag b : ℝ) = 13421772 * 2 ^ 122 := by exact_mod_cast hmag
      rw [hmag'] at hprev ⊢
      linarith
  case high =>
    rcases hhi.lt_or_eq with h | h
    · have hnot := habove h
      rw [← Bool.not_eq_true, belowRoot_midpoint28_iff n (by omega) h, not_lt] at hnot
      exact hnot
    · -- the greatest one is 1.0, which is above the root
      have hnext := hmono (Nat.le_succ b)
      have hmag : (F32.bitsMag b : ℝ) = 2 ^ 149 := by rw [h]; exact_mod_cast F32.bitsMag_one
      rw [Nat.succ_eq_add_one, hmag] at hnext
      rw [hmag]
      linarith

end Sys2Proof.Machine
end

section
/-! PROOFS. O50: FACTOR is correctly rounded (42_envelope R410). -/

namespace Sys2Proof.Machine

/-- The value of a datum as a real number, by its sign and its bits. -/
theorem F32.value_cast_mul (w : Word) :
    ((F32.value w : ℚ) : ℝ) * 2 ^ 149 = ((F32.signFactor (F32.sign w) : ℚ) : ℝ) * F32.bitsMag (F32.bits w) := by
  have hunit : (F32.unit : ℝ) = 2 ^ 149 := by rw [F32.unit, Nat.cast_pow, Nat.cast_ofNat]
  have hne : (F32.unit : ℝ) ≠ 0 := by rw [hunit]; positivity
  rw [F32.value_eq, ← hunit]
  push_cast
  exact div_mul_cancel₀ _ hne

/-- A positive value is no nearer to a datum than to the magnitude of its bits. -/
theorem F32.abs_sub_bitsMag_le (w : Word) {x : ℝ} (hx : 0 ≤ x) :
    |x * 2 ^ 149 - F32.bitsMag (F32.bits w)| ≤ |x - ((F32.value w : ℚ) : ℝ)| * 2 ^ 149 := by
  have hmag : (0 : ℝ) ≤ F32.bitsMag (F32.bits w) := Nat.cast_nonneg _
  have hunit : (0 : ℝ) < 2 ^ 149 := by positivity
  have hscaled : 0 ≤ x * 2 ^ 149 := mul_nonneg hx hunit.le
  rw [← abs_of_pos hunit, ← abs_mul, sub_mul, abs_of_pos hunit, F32.value_cast_mul]
  cases F32.sign w
  · simp [F32.signFactor]
  · rw [show ((F32.signFactor true : ℚ) : ℝ) = -1 by simp [F32.signFactor], neg_one_mul, sub_neg_eq_add]
    exact (abs_sub_le_of_nonneg_of_le hscaled (le_add_of_nonneg_right hmag) hmag (le_add_of_nonneg_left hscaled)).trans
      (le_abs_self _)

/-- Settles O50: the search ends at the pattern whose midpoints enclose the root, which is the nearest datum. -/
theorem factorIsCorrectlyRounded : Obligations.FactorIsCorrectlyRounded := by
  refine ⟨rfl, fun n hn => ?_⟩
  obtain ⟨b, hb⟩ : ∃ b, b = rootSearch (n + 1) 25 0x3DCCCCCC 0x3F800000 := ⟨_, rfl⟩
  obtain ⟨hlo, hhi, hlow, hhigh⟩ := rootSearch_encloses hn hb
  have hfactor : envFactor n = BitVec.ofNat 32 b := by rw [envFactor, if_neg (by omega), ← hb]
  have hpack : BitVec.ofNat 32 b = F32.pack false b := by
    refine BitVec.eq_of_toNat_eq ?_
    rw [F32.pack_toNat, BitVec.toNat_ofNat, Bool.toNat_false]
    omega
  have hbits : F32.bits (F32.pack false b) = b := F32.bits_pack false (by omega)
  have hunit : (0 : ℝ) < 2 ^ 149 := by positivity
  rw [hfactor, hpack]
  refine ⟨?finite, ?positive, fun w _ => ?nearest⟩
  case finite =>
    rw [F32.isFinite_iff, hbits]
    omega
  case positive =>
    have hmag : 0 < F32.bitsMag b := F32.bitsMag_strictMono (show 0 < b by omega)
    rw [F32.value_pos_iff, F32.mag_eq_bitsMag, F32.sign_pack, hbits]
    exact ⟨rfl, hmag.ne'⟩
  case nearest =>
    have hvalue : ((F32.value (F32.pack false b) : ℚ) : ℝ) * 2 ^ 149 = F32.bitsMag b := by
      rw [F32.value_cast_mul, F32.sign_pack, hbits, F32.signFactor, if_neg Bool.false_ne_true, Rat.cast_one, one_mul]
    refine le_of_mul_le_mul_right ?_ hunit
    calc |factorRoot n - ((F32.value (F32.pack false b) : ℚ) : ℝ)| * 2 ^ 149
      _ = |factorRoot n * 2 ^ 149 - F32.bitsMag b| := by
          rw [← hvalue, ← sub_mul, abs_mul, abs_of_pos hunit]
      _ ≤ |factorRoot n * 2 ^ 149 - F32.bitsMag (F32.bits w)| := F32.bitsMag_nearest hlow hhigh _
      _ ≤ |factorRoot n - ((F32.value w : ℚ) : ℝ)| * 2 ^ 149 := F32.abs_sub_bitsMag_le w (factorRoot_pos n).le

end Sys2Proof.Machine
end

section
/-! PROOFS. O49: ADVANCE by the phases it skips (42_envelope R411, R421). -/

namespace Sys2Proof.Machine

/-- The gain that skipped phases leave: the last one's target, or the old gain (42 R421). -/
def skippedGain (e : Env) (skipped : List EnvPhase) : Word := (skipped.getLast?.map (phaseTarget e)).getD e.gain

/-- Budgets and targets do not depend on the gain. -/
theorem phaseBudget_gain (e : Env) (g : Word) (p : EnvPhase) :
    phaseBudget { e with gain := g } p = phaseBudget e p := by
  cases p <;> rfl

theorem phaseTarget_gain (e : Env) (g : Word) (p : EnvPhase) :
    phaseTarget { e with gain := g } p = phaseTarget e p := by
  cases p <;> rfl

/-- The jumps over a first phase and over those after it are the jumps over all of them. -/
theorem skippedGain_cons (e : Env) (q : EnvPhase) (skipped : List EnvPhase) :
    skippedGain { e with gain := phaseTarget e q } skipped = skippedGain e (q :: skipped) := by
  unfold skippedGain
  rw [List.getLast?_cons, funext (phaseTarget_gain e (phaseTarget e q))]
  cases skipped.getLast? <;> rfl

/-- Phases without a budget are skipped, and each jumps the gain (42 R421). -/
theorem advanceThrough_skipped (skipped rest : List EnvPhase) (e : Env) (hskip : ∀ q ∈ skipped, phaseBudget e q = 0) :
    advanceThrough (skipped ++ rest) e = advanceThrough rest { e with gain := skippedGain e skipped } := by
  induction skipped generalizing e with
  | nil => rfl
  | cons q skipped ih =>
    obtain ⟨hq, hskip⟩ := List.forall_mem_cons.1 hskip
    rw [List.cons_append, advanceThrough, if_pos hq, ih _ (by simpa only [phaseBudget_gain] using hskip),
      skippedGain_cons]

/-- The next phase with a budget is entered (42 R421). -/
theorem envAdvance_of_budget {e : Env} {skipped rest : List EnvPhase} {p : EnvPhase}
    (hphases : phasesAfter e.phase = skipped ++ p :: rest) (hskip : ∀ q ∈ skipped, phaseBudget e q = 0)
    (hp : phaseBudget e p ≠ 0) :
    envAdvance e = { e with phase := p, budget := phaseBudget e p, tgt := phaseTarget e p,
                            fact := envFactor (phaseBudget e p).toNat, gain := skippedGain e skipped } := by
  rw [envAdvance, hphases, advanceThrough_skipped _ _ _ hskip, advanceThrough, phaseBudget_gain, if_neg hp, envEnter,
    phaseBudget_gain, phaseTarget_gain]

/-- Where no phase has a budget the note finishes (42 R421). -/
theorem envAdvance_of_no_budget {e : Env} (hskip : ∀ q ∈ phasesAfter e.phase, phaseBudget e q = 0) :
    envAdvance e = { e with phase := .finished, budget := 0, gain := skippedGain e (phasesAfter e.phase) } := by
  rw [envAdvance, ← List.append_nil (phasesAfter e.phase), advanceThrough_skipped _ _ _ hskip, List.append_nil,
    advanceThrough, envFinish]

/-- Settles O49: the table by its rows, then ADVANCE over the phases it skips. -/
theorem advanceSkipsPhasesWithoutBudget : Obligations.AdvanceSkipsPhasesWithoutBudget := by
  refine ⟨fun e => ⟨?rows, rfl, rfl, fun k hk p hp => ?order⟩,
    fun e => ⟨fun skipped rest p hphases hskip hp => envAdvance_of_budget hphases hskip hp, envAdvance_of_no_budget⟩⟩
  case rows => simp [Spec.phaseTable, phaseBudget, phaseTarget, F32.one, F32.zero]
  case order => interval_cases k <;> obtain rfl := Option.some.inj hp <;> rfl

end Sys2Proof.Machine
end

section
/-! PROOFS. O48: one envelope sample and a run of them (42_envelope R422, R442). -/

namespace Sys2Proof.Machine

/-! ### A run of samples -/

theorem envSamples_of_none {s t : State} (n : Nat) (h : envSample s = (none, t)) : envSamples (n + 1) s = ([], t) := by
  rw [envSamples, h]

theorem envSamples_of_some {s t : State} {x : Word} (n : Nat) (h : envSample s = (some x, t)) :
    envSamples (n + 1) s = (x :: (envSamples n t).1, (envSamples n t).2) := by
  rw [envSamples, h]

/-! ### One sample -/

theorem envSample_of_finished {s : State} (h : s.env.phase = .finished) : envSample s = (none, s) := by
  rw [envSample, if_pos h]

/-- A note that has finished gives no more samples (42 R450). -/
theorem envSamples_of_finished {s : State} (n : Nat) (h : s.env.phase = .finished) : envSamples n s = ([], s) := by
  cases n with
  | zero => rfl
  | succ n => exact envSamples_of_none n (envSample_of_finished h)

theorem envSample_of_end {s : State} (h : s.env.phase ≠ .finished) (hend : s.env.len.toNat ≤ s.env.cursor.toNat) :
    envSample s = (none, { s with env := envFinish s.env }) := by
  rw [envSample, if_neg h, if_pos (BitVec.le_def.2 hend)]

theorem ne_of_phaseRuns {p : EnvPhase} (h : phaseRuns p = true) : p ≠ .ready ∧ p ≠ .finished := by
  constructor <;> rintro rfl <;> exact Bool.false_ne_true h

/-- In a running phase short of the buffer's end there is a sample (42 R422). -/
theorem envSample_of_runs {s : State} (hruns : phaseRuns s.env.phase = true)
    (hlt : s.env.cursor.toNat < s.env.len.toNat) :
    envSample s = (some (envEmit s.env s).1, (envEmit s.env s).2) := by
  obtain ⟨hready, hfin⟩ := ne_of_phaseRuns hruns
  have hplaying : envPlaying s.env = s.env := if_neg hready
  rw [envSample, if_neg hfin, if_neg (BitVec.not_le.2 (BitVec.lt_def.2 hlt))]
  simp only [hplaying, if_neg hfin]

/-- Ready is left before the sample (42 R422). -/
theorem envSample_of_ready {s : State} (hready : s.env.phase = .ready) (hlt : s.env.cursor.toNat < s.env.len.toNat) :
    envSample s = envSample { s with env := envAdvance s.env } := by
  have hplaying : envPlaying s.env = envAdvance s.env := if_pos hready
  obtain ⟨hcursor, hlen⟩ := envPlaying_cursor_len s.env
  have hne : s.env.phase ≠ .finished := by rw [hready]; decide
  rcases envSample_cases s with ⟨hfin, -⟩ | ⟨-, hend, -⟩ | ⟨-, -, hfin, heq⟩ | ⟨-, -, hfin, heq⟩
  · exact absurd hfin hne
  · exact absurd (BitVec.le_def.1 hend) (Nat.not_le.2 hlt)
  · rw [hplaying] at hfin heq
    rw [heq, envSample_of_finished hfin]
  · have hruns := phaseRuns_envPlaying hfin
    rw [hplaying] at heq hruns hcursor hlen
    have hlt' : (envAdvance s.env).cursor.toNat < (envAdvance s.env).len.toNat := by rwa [hcursor, hlen]
    rw [heq, envSample_of_runs (s := { s with env := envAdvance s.env }) hruns hlt']
    rfl

/-! ### The envelope after a sample -/

section Stepped

variable {e : Env} (g : Word)

theorem cursor_succ_toNat (hlt : e.cursor.toNat < e.len.toNat) : (e.cursor + 1).toNat = e.cursor.toNat + 1 := by
  bv_omega

theorem envStepped_cursor (e : Env) (g : Word) : (envStepped e g).cursor = e.cursor + 1 := by
  unfold envStepped
  simp only []
  split
  · rfl
  · split
    · obtain ⟨ph, b, g', f, t, heq⟩ := advanceThrough_frame (phasesAfter e.phase)
        { e with gain := g, cursor := e.cursor + 1, budget := e.budget - 1 }
      rw [envAdvance, heq]
    · rfl

/-- The last sample of the buffer finishes the note (42 R422). -/
theorem envStepped_of_end (hend : e.cursor.toNat + 1 = e.len.toNat) :
    envStepped e g = envFinish { e with gain := g, cursor := e.cursor + 1, budget := e.budget - 1 } := by
  refine if_pos (BitVec.le_def.2 ?_)
  rw [cursor_succ_toNat (by omega)]
  exact hend.ge

/-- Before it, the last sample of a phase is followed by ADVANCE (42 R422). -/
theorem envStepped_of_budget_one (hlt : e.cursor.toNat + 1 < e.len.toNat) (hb : e.budget = 1) :
    envStepped e g = envAdvance { e with gain := g, cursor := e.cursor + 1, budget := 0 } := by
  have hopen : ¬e.len ≤ e.cursor + 1 := by
    rw [BitVec.le_def, cursor_succ_toNat (by omega)]
    omega
  have hbudget : e.budget - 1 = 0 := by rw [hb]; rfl
  simp only [envStepped, if_neg hopen, hbudget, if_true]

/-- Every other sample leaves the phase as it is (42 R422). -/
theorem envStepped_of_budget (hlt : e.cursor.toNat + 1 < e.len.toNat) (hb : 2 ≤ e.budget.toNat) :
    envStepped e g = { e with gain := g, cursor := e.cursor + 1, budget := e.budget - 1 } := by
  have hopen : ¬e.len ≤ e.cursor + 1 := by
    rw [BitVec.le_def, cursor_succ_toNat (by omega)]
    omega
  have hbudget : ¬e.budget - 1 = 0 := by bv_omega
  simp only [envStepped, if_neg hopen, if_neg hbudget]

end Stepped

/-- Settles O48: the runs by their first sample, the samples by the phase they are taken in. -/
theorem envSampleStepsTheEnvelope : Obligations.EnvSampleStepsTheEnvelope := by
  refine ⟨fun s => rfl, fun n s t h => envSamples_of_none n h, fun n s t x h => envSamples_of_some n h, fun s g =>
    ⟨envSample_of_finished, envSample_of_end, envSample_of_ready, fun hruns hlt hg => ?_⟩⟩
  have hg' : gainStep s.draws s.env = g := hg.symm
  have hcursor := envStepped_cursor s.env g
  refine ⟨{ s with env := envStepped s.env g, draws := s.draws + 5 }, ?sample, rfl, ?cursor, fun hend => ?finishes,
    fun hopen hb => ?stays, fun hopen hb => ?advances⟩
  case sample => rw [envSample_of_runs hruns hlt, ← hg']; rfl
  case cursor => rw [hcursor, cursor_succ_toNat hlt]
  case finishes =>
    simp only [hcursor]
    exact envStepped_of_end g hend
  case stays =>
    have hstep := envStepped_of_budget g hopen hb
    simp only [hstep]
    exact ⟨trivial, by bv_omega⟩
  case advances =>
    simp only [hcursor]
    exact envStepped_of_budget_one g hopen hb

end Sys2Proof.Machine
end

section
/-! SUPPORT. A note in time (42_envelope R451, R452): the phase and the budget as functions of the cursor, kept by every
sample before the last. -/

namespace Sys2Proof.Machine

/-! ### The schedule of a full note -/

/-- The cursor at which a phase of an uninterrupted note ends; the phases outside the note end at 0. -/
def phaseEnd (e : Env) : EnvPhase → Nat
  | .attack  => e.na.toNat
  | .decay   => e.na.toNat + e.nd.toNat
  | .sustain => e.na.toNat + e.nd.toNat + e.ns.toNat
  | .release => e.na.toNat + e.nd.toNat + e.ns.toNat + e.nr.toNat
  | .ready | .fadeout | .finished => 0

/-- The four phases of the note fill the buffer. -/
def FillsBuffer (e : Env) : Prop := e.na.toNat + e.nd.toNat + e.ns.toNat + e.nr.toNat = e.len.toNat

/-- Ends and budgets are functions of the latched parameters. -/
theorem phaseEnd_of_params {e e' : Env} (h : envParams e' = envParams e) (p : EnvPhase) :
    phaseEnd e' p = phaseEnd e p := by
  obtain ⟨-, -, hna, hnd, hns, hnr, -⟩ := (envParams_eq_iff e e').1 h
  cases p <;> simp only [phaseEnd, hna, hnd, hns, hnr]

theorem phaseBudget_of_params {e e' : Env} (h : envParams e' = envParams e) (p : EnvPhase) :
    phaseBudget e' p = phaseBudget e p := by
  obtain ⟨-, -, hna, hnd, hns, hnr, hnf, -⟩ := (envParams_eq_iff e e').1 h
  cases p <;> simp only [phaseBudget, hna, hnd, hns, hnr, hnf]

/-- The phase is one of the note's four, entered at or before the cursor and ending after it, and the budget is what it
has left. -/
structure OnSchedule (e : Env) : Prop where
  fills   : FillsBuffer e
  entered : phaseEnd e e.phase ≤ e.cursor.toNat + (phaseBudget e e.phase).toNat
  running : e.cursor.toNat < phaseEnd e e.phase
  budget  : e.cursor.toNat + e.budget.toNat = phaseEnd e e.phase

theorem fillsBuffer_of_params {e e' : Env} (h : envParams e' = envParams e) (hfills : FillsBuffer e) :
    FillsBuffer e' := by
  obtain ⟨-, -, hna, hnd, hns, hnr, -, -, hlen⟩ := (envParams_eq_iff e e').1 h
  unfold FillsBuffer
  rw [hna, hnd, hns, hnr, hlen, hfills]

/-- A note is on schedule by the parameters of any envelope with the same ones. -/
theorem OnSchedule.of_params {e e' : Env} (h : envParams e' = envParams e) {p : EnvPhase} {k b : Nat}
    (hp : e'.phase = p) (hk : e'.cursor.toNat = k) (hb : e'.budget.toNat = b) (hfills : FillsBuffer e)
    (hentered : phaseEnd e p ≤ k + (phaseBudget e p).toNat) (hrunning : k < phaseEnd e p)
    (hbudget : k + b = phaseEnd e p) : OnSchedule e' := by
  subst hp hk hb
  rw [← phaseEnd_of_params h] at hentered hrunning hbudget
  rw [← phaseBudget_of_params h] at hentered
  exact ⟨fillsBuffer_of_params h hfills, hentered, hrunning, hbudget⟩

/-- No phase of the note ends after the buffer. -/
theorem phaseEnd_le_len {e : Env} (h : FillsBuffer e) (p : EnvPhase) : phaseEnd e p ≤ e.len.toNat := by
  unfold FillsBuffer at h
  cases p <;> simp only [phaseEnd] <;> omega

theorem OnSchedule.lt_len {e : Env} (h : OnSchedule e) : e.cursor.toNat < e.len.toNat :=
  h.running.trans_le (phaseEnd_le_len h.fills _)

theorem OnSchedule.phaseRuns {e : Env} (h : OnSchedule e) : phaseRuns e.phase = true := by
  have hrunning := h.running
  refine phaseRuns_of_ne ?_ ?_ <;> intro hp <;> rw [hp] at hrunning <;> exact absurd hrunning (Nat.not_lt_zero _)

/-- The phase on schedule, by the bounds of R451. -/
theorem OnSchedule.phase_eq {e : Env} (h : OnSchedule e) :
    e.phase =
      if e.cursor.toNat < e.na.toNat then .attack
      else if e.cursor.toNat < e.na.toNat + e.nd.toNat then .decay
      else if e.cursor.toNat < e.len.toNat - e.nr.toNat then .sustain
      else .release := by
  obtain ⟨hfills, hentered, hrunning, -⟩ := h
  cases hp : e.phase <;> simp only [FillsBuffer, hp, phaseEnd, phaseBudget] at hfills hentered hrunning
  case ready | fadeout | finished => exact absurd hrunning (Nat.not_lt_zero _)
  case attack => rw [if_pos hrunning]
  case decay => rw [if_neg (by omega), if_pos hrunning]
  case sustain => rw [if_neg (by omega), if_neg (by omega), if_pos (by omega)]
  case release => rw [if_neg (by omega), if_neg (by omega), if_neg (by omega)]

/-- Before the buffer's end the next phase in the order ends one budget later (42 R411). -/
theorem phasesAfter_eq_cons {e : Env} (h : FillsBuffer e) {p : EnvPhase} (hend : phaseEnd e p < e.len.toNat)
    (hnote : p ≠ .fadeout ∧ p ≠ .finished) :
    ∃ q, phasesAfter p = q :: phasesAfter q ∧ phaseEnd e q = phaseEnd e p + (phaseBudget e q).toNat ∧
      q ≠ .fadeout ∧ q ≠ .finished := by
  obtain ⟨hfade, hfin⟩ := hnote
  cases p
  case ready => exact ⟨.attack, rfl, (Nat.zero_add _).symm, by decide, by decide⟩
  case attack => exact ⟨.decay, rfl, rfl, by decide, by decide⟩
  case decay => exact ⟨.sustain, rfl, rfl, by decide, by decide⟩
  case sustain => exact ⟨.release, rfl, rfl, by decide, by decide⟩
  case release => exact absurd h (Nat.ne_of_lt hend)
  case fadeout => exact absurd rfl hfade
  case finished => exact absurd rfl hfin

/-- ADVANCE over the phases after one that ends at the cursor: those without a budget end there too, and the first with
one is entered on schedule. -/
theorem advanceThrough_onSchedule {e : Env} (h : FillsBuffer e) (hlt : e.cursor.toNat < e.len.toNat) {p : EnvPhase}
    (hend : phaseEnd e p = e.cursor.toNat) (hnote : p ≠ .fadeout ∧ p ≠ .finished) :
    OnSchedule (advanceThrough (phasesAfter p) e) := by
  induction hn : (phasesAfter p).length generalizing e p with
  | zero =>
    obtain ⟨q, hq, -⟩ := phasesAfter_eq_cons h (hend ▸ hlt) hnote
    rw [hq] at hn
    exact absurd hn (Nat.succ_ne_zero _)
  | succ n ih =>
    obtain ⟨q, hq, hendq, hnoteq⟩ := phasesAfter_eq_cons h (hend ▸ hlt) hnote
    rw [hq] at hn ⊢
    rw [advanceThrough]
    split
    · next hb =>
      refine ih (e := { e with gain := phaseTarget e q }) h hlt ?_ hnoteq (Nat.succ.inj hn)
      calc phaseEnd { e with gain := phaseTarget e q } q
        _ = phaseEnd e q := phaseEnd_of_params rfl q
        _ = e.cursor.toNat := by rw [hendq, hend, hb]; rfl
    · next hb =>
      have hpos : 0 < (phaseBudget e q).toNat := Nat.pos_of_ne_zero fun h0 => hb (BitVec.eq_of_toNat_eq h0)
      exact .of_params (p := q) (k := e.cursor.toNat) (b := (phaseBudget e q).toNat) (envParams_envEnter q e)
        rfl rfl rfl h (by omega) (by omega) (by omega)

/-- A sample before the last keeps the note on schedule (42 R451). -/
theorem envStepped_onSchedule {e : Env} (h : OnSchedule e) (g : Word) (hlt : e.cursor.toNat + 1 < e.len.toNat) :
    OnSchedule (envStepped e g) := by
  obtain ⟨hfills, hentered, hrunning, hbudget⟩ := h
  have hcursor : (e.cursor + 1).toNat = e.cursor.toNat + 1 := cursor_succ_toNat (by omega)
  rcases Nat.lt_or_ge 1 e.budget.toNat with hb | hb
  · have hleft : (e.budget - 1).toNat = e.budget.toNat - 1 := by bv_omega
    rw [envStepped_of_budget g hlt hb]
    exact .of_params (e := e) (p := e.phase) rfl rfl hcursor hleft hfills (by omega) (by omega) (by omega)
  · have hone : e.budget = 1 := BitVec.eq_of_toNat_eq (show e.budget.toNat = 1 by omega)
    have hnote : e.phase ≠ .fadeout ∧ e.phase ≠ .finished := by
      constructor <;> intro hp <;> rw [hp] at hrunning <;> exact absurd hrunning (Nat.not_lt_zero _)
    rw [envStepped_of_budget_one g hlt hone]
    refine advanceThrough_onSchedule (e := { e with gain := g, cursor := e.cursor + 1, budget := 0 }) hfills ?_ ?_ hnote
    · exact hcursor.trans_lt hlt
    · calc phaseEnd { e with gain := g, cursor := e.cursor + 1, budget := 0 } e.phase
        _ = phaseEnd e e.phase := phaseEnd_of_params rfl e.phase
        _ = (e.cursor + 1).toNat := by rw [← hbudget, hone, hcursor]; rfl

/-! ### Runs on schedule -/

/-- The latched numbers of samples, which a run of samples leaves (42 R403). -/
theorem envSamples_latched (n : Nat) (s : State) :
    (envSamples n s).2.env.na = s.env.na ∧ (envSamples n s).2.env.nd = s.env.nd ∧
    (envSamples n s).2.env.nr = s.env.nr ∧ (envSamples n s).2.env.len = s.env.len := by
  obtain ⟨-, -, hna, hnd, -, hnr, -, -, hlen⟩ := (envParams_eq_iff _ _).1 (envParams_envSamples n s)
  exact ⟨hna, hnd, hnr, hlen⟩

/-- From a note on schedule, every request up to the buffer's end gives a sample; before the end the note is on schedule
at its new cursor, and at the end it is Finished. -/
theorem envSamples_onSchedule (n : Nat) {s : State} (h : OnSchedule s.env)
    (hn : s.env.cursor.toNat + n ≤ s.env.len.toNat) :
    (envSamples n s).1.length = n ∧ (envSamples n s).2.env.cursor.toNat = s.env.cursor.toNat + n ∧
    (s.env.cursor.toNat + n < s.env.len.toNat → OnSchedule (envSamples n s).2.env) ∧
    (s.env.cursor.toNat + n = s.env.len.toNat → (envSamples n s).2.env.phase = .finished) := by
  induction n generalizing s with
  | zero => exact ⟨rfl, rfl, fun _ => h, fun hend => absurd hend (Nat.ne_of_lt h.lt_len)⟩
  | succ n ih =>
    have hsample := envSamples_of_some n (envSample_of_runs h.phaseRuns h.lt_len)
    obtain ⟨t, ht⟩ : ∃ t, t = (envEmit s.env s).2 := ⟨_, rfl⟩
    rw [← ht] at hsample
    have henv : t.env = envStepped s.env (gainStep s.draws s.env) := by rw [ht]; rfl
    have hcursor : t.env.cursor.toNat = s.env.cursor.toNat + 1 := by
      rw [henv, envStepped_cursor, cursor_succ_toNat h.lt_len]
    have hlen : t.env.len = s.env.len := by
      obtain ⟨-, -, -, -, -, -, -, -, hlen⟩ := (envParams_eq_iff _ _).1 (envParams_envStepped s.env
        (gainStep s.draws s.env))
      rw [henv, hlen]
    rw [hsample]
    rcases Nat.lt_or_ge (s.env.cursor.toNat + 1) s.env.len.toNat with hlt | hge
    · have hsched : OnSchedule t.env := henv ▸ envStepped_onSchedule h _ hlt
      obtain ⟨hlength, hcur, hkeep, hfin⟩ := ih hsched (by rw [hcursor, hlen]; omega)
      rw [hcursor, hlen] at hkeep hfin
      exact ⟨congrArg Nat.succ hlength, by rw [hcur, hcursor]; omega, fun h => hkeep (by omega),
        fun h => hfin (by omega)⟩
    · obtain rfl : n = 0 := by omega
      refine ⟨rfl, hcursor, fun h => by omega, fun hend => ?_⟩
      change t.env.phase = .finished
      rw [henv, envStepped_of_end _ hend]
      rfl

/-- A run from Ready is one from the phase that ADVANCE enters. -/
theorem envSamples_of_ready {s : State} (n : Nat) (hready : s.env.phase = .ready)
    (hlt : s.env.cursor.toNat < s.env.len.toNat) :
    envSamples (n + 1) s = envSamples (n + 1) { s with env := envAdvance s.env } := by
  rw [envSamples, envSample_of_ready hready hlt]
  rfl

/-- A note whose phases fill the buffer, from Ready on: ADVANCE enters it on schedule. -/
theorem envSamples_note (n : Nat) {s : State} (hready : s.env.phase = .ready) (hzero : s.env.cursor = 0)
    (hfills : FillsBuffer s.env) (hn : n + 1 ≤ s.env.len.toNat) :
    (envSamples (n + 1) s).1.length = n + 1 ∧ (envSamples (n + 1) s).2.env.cursor.toNat = n + 1 ∧
    (n + 1 < s.env.len.toNat → OnSchedule (envSamples (n + 1) s).2.env) ∧
    (n + 1 = s.env.len.toNat → (envSamples (n + 1) s).2.env.phase = .finished) := by
  have hcursor : s.env.cursor.toNat = 0 := by rw [hzero]; rfl
  have hlt : s.env.cursor.toNat < s.env.len.toNat := by omega
  have hsched : OnSchedule (envAdvance s.env) :=
    advanceThrough_onSchedule hfills hlt (by rw [hready, hcursor]; rfl) (by rw [hready]; decide)
  obtain ⟨hcursor', hlen'⟩ := envPlaying_cursor_len s.env
  rw [envPlaying, if_pos hready] at hcursor' hlen'
  have h := envSamples_onSchedule (n + 1) (s := { s with env := envAdvance s.env }) hsched
  simp only [hcursor', hlen', hcursor, Nat.zero_add] at h
  rw [envSamples_of_ready n hready hlt]
  exact h hn

/-! ### A fade -/

/-- In Fadeout with `b` samples left in its budget and as many in the buffer. -/
structure Fading (b : Nat) (e : Env) : Prop where
  phase  : e.phase = .fadeout
  budget : e.budget.toNat = b
  fits   : e.cursor.toNat + b ≤ e.len.toNat

/-- A sample of a fade: the last one finishes the note, by the buffer's end or since no phase is left. -/
theorem envStepped_fading {b : Nat} {e : Env} (h : Fading (b + 1) e) (g : Word) :
    (b = 0 → (envStepped e g).phase = .finished) ∧ (b ≠ 0 → Fading b (envStepped e g)) := by
  obtain ⟨hphase, hbudget, hfits⟩ := h
  rcases Nat.lt_or_ge (e.cursor.toNat + 1) e.len.toNat with hlt | hge
  · refine ⟨fun hb => ?_, fun hb => ?_⟩
    · subst hb
      rw [envStepped_of_budget_one g hlt (BitVec.eq_of_toNat_eq hbudget), envAdvance]
      simp only [hphase]
      rfl
    · rw [envStepped_of_budget g hlt (by omega)]
      refine ⟨hphase, ?_, ?_⟩
      · change (e.budget - 1).toNat = b
        bv_omega
      · simp only [cursor_succ_toNat (show e.cursor.toNat < e.len.toNat by omega)]
        omega
  · rw [envStepped_of_end g (by omega)]
    exact ⟨fun _ => rfl, fun hb => by omega⟩

/-- A fade gives a sample for each request up to its budget, and then no more. -/
theorem envSamples_fading (n : Nat) {b : Nat} {s : State} (h : Fading b s.env) (hb : b ≠ 0) :
    (n < b → (envSamples n s).1.length = n ∧ (envSamples n s).2.env.phase = .fadeout) ∧
    (b ≤ n → (envSamples n s).1.length = b ∧ (envSamples n s).2.env.phase = .finished) := by
  induction n generalizing s b with
  | zero => exact ⟨fun _ => ⟨rfl, h.phase⟩, fun hle => absurd (Nat.le_zero.1 hle) hb⟩
  | succ n ih =>
    obtain ⟨b, rfl⟩ := Nat.exists_eq_succ_of_ne_zero hb
    have hruns : phaseRuns s.env.phase = true := by rw [h.phase]; rfl
    have hlt : s.env.cursor.toNat < s.env.len.toNat := by
      have := h.fits
      omega
    obtain ⟨hlast, hnext⟩ := envStepped_fading h (gainStep s.draws s.env)
    rw [envSamples_of_some n (envSample_of_runs hruns hlt)]
    by_cases hb0 : b = 0
    · have hfin : (envEmit s.env s).2.env.phase = .finished := hlast hb0
      simp only [envSamples_of_finished n hfin]
      subst hb0
      exact ⟨fun hlt => by omega, fun _ => ⟨rfl, hfin⟩⟩
    · obtain ⟨hshort, hlong⟩ := ih (s := (envEmit s.env s).2) (hnext hb0) hb0
      refine ⟨fun hlt => ?_, fun hle => ?_⟩
      · obtain ⟨hlength, hphase⟩ := hshort (by omega)
        exact ⟨congrArg Nat.succ hlength, hphase⟩
      · obtain ⟨hlength, hphase⟩ := hlong (by omega)
        exact ⟨congrArg Nat.succ hlength, hphase⟩

end Sys2Proof.Machine
end

section
/-! PROOFS. O51, O52, O57: a full note, a fade, and the end of both (42_envelope R450 to R452). -/

namespace Sys2Proof.Machine

/-- ENV_ON latches phases that fill the buffer, where the first two and the last fit (42 R403). -/
theorem fillsBuffer_envLatch {e : Env}
    (hfit : (envLatch e).na.toNat + (envLatch e).nd.toNat + (envLatch e).nr.toNat ≤ (envLatch e).len.toNat) :
    FillsBuffer (envLatch e) := by
  have hns := envLatch_ns_toNat e
  unfold FillsBuffer
  omega

/-- Settles O51: ADVANCE from Ready enters the note on schedule, and the samples keep it there up to the last. -/
theorem fullNoteVisitsThePhasesInOrder : Obligations.FullNoteVisitsThePhasesInOrder := by
  intro s t hexec hfit
  cases hexec
  obtain ⟨t, ht⟩ : ∃ t : State, t = { s with env := { envLatch s.env with
    cursor := 0, phase := .ready, budget := 0, gain := F32.zero, fact := F32.zero, tgt := F32.zero } } := ⟨_, rfl⟩
  rw [← ht] at hfit ⊢
  have hready : t.env.phase = .ready := by rw [ht]
  have hzero : t.env.cursor = 0 := by rw [ht]
  have hfills : FillsBuffer t.env := by rw [ht] at hfit ⊢; exact fillsBuffer_envLatch hfit
  have hrun := fun n => envSamples_note n hready hzero hfills
  refine ⟨fun k hk => ?count, fun k hpos hlt => ?phase, fun hpos => ?finished, ?cursor⟩
  case count =>
    cases k with
    | zero => rfl
    | succ n => exact (hrun n hk).1
  case phase =>
    obtain ⟨n, rfl⟩ := Nat.exists_eq_succ_of_ne_zero hpos.ne'
    obtain ⟨-, hcursor, hsched, -⟩ := hrun n hlt.le
    obtain ⟨hna, hnd, hnr, hlen⟩ := envSamples_latched (n + 1) t
    have hphase := (hsched hlt).phase_eq
    rwa [hcursor, hna, hnd, hnr, hlen] at hphase
  case finished =>
    obtain ⟨n, hn⟩ := Nat.exists_eq_succ_of_ne_zero hpos.ne'
    obtain ⟨-, -, -, hfin⟩ := hrun n hn.ge
    rw [hn]
    exact hfin hn.symm
  case cursor =>
    refine BitVec.eq_of_toNat_eq ?_
    rcases Nat.eq_zero_or_pos t.env.len.toNat with h0 | hpos
    · rw [h0]
      change t.env.cursor.toNat = 0
      rw [hzero]
      rfl
    · obtain ⟨n, hn⟩ := Nat.exists_eq_succ_of_ne_zero hpos.ne'
      obtain ⟨-, hcursor, -⟩ := hrun n hn.ge
      rw [hn]
      exact hcursor

/-- Settles O52: ENV_OFF in Sustain enters a fade of NF samples. -/
theorem noteOffFadesForItsBudget : Obligations.NoteOffFadesForItsBudget := by
  intro s hphase hnf hfits
  have hexec : exec .envOff s = .next { s with env := envEnter .fadeout s.env } := by
    rcases exec_envOff_cases s with ⟨hidle, -⟩ | ⟨-, heq⟩
    · rw [hphase] at hidle
      exact absurd hidle (by decide)
    · rw [heq, if_neg hnf]
  have hpos : s.env.nf.toNat ≠ 0 := fun h0 => hnf (BitVec.eq_of_toNat_eq h0)
  have hfade : Fading s.env.nf.toNat (envEnter .fadeout s.env) := ⟨rfl, rfl, hfits⟩
  have hrun := fun n => envSamples_fading n (s := { s with env := envEnter .fadeout s.env }) hfade hpos
  exact ⟨_, hexec, rfl, fun k => (hrun k).1, fun m => (hrun m).2⟩

/-- ENV_PLAY in Finished records an error, or leaves the note Finished, and plays nothing (42 R441, R450). -/
theorem exec_envPlay_of_finished {s t : State} (hfin : s.env.phase = .finished) (hexec : exec .envPlay s = .next t) :
    t.env.phase = .finished ∧ t.mem = s.mem ∧ t.epoch = s.epoch := by
  rcases exec_envPlay_cases s _ rfl with ⟨_, heq⟩ | ⟨_, _, heq⟩ | ⟨_, _, _, heq⟩ | ⟨_, _, hne, _⟩ | ⟨_, _, hne, _⟩
  · cases heq.symm.trans hexec
    exact ⟨hfin, rfl, rfl⟩
  · cases heq.symm.trans hexec
    exact ⟨rfl, rfl, rfl⟩
  · cases heq.symm.trans hexec
    exact ⟨hfin, rfl, rfl⟩
  · exact absurd hfin hne
  · exact absurd hfin hne

/-- Settles O57: of the commands that may write ENV, SRST resets to Finished, and only ENV_ON leaves it. -/
theorem finishedIsTerminal : Obligations.FinishedIsTerminal := by
  intro s hfin
  have hoff : exec .envOff s = .next s := by
    rcases exec_envOff_cases s with ⟨-, heq⟩ | ⟨hne, -⟩
    · exact heq
    · exact absurd (.inr hfin) hne
  refine ⟨envSample_of_finished hfin, hoff, fun t hexec a => ?bytes, fun i t hon hexec => ?phase⟩
  case bytes =>
    obtain ⟨-, hmem, hepoch⟩ := exec_envPlay_of_finished hfin hexec
    unfold byteAt
    rw [hmem, hepoch]
  case phase =>
    by_cases henv : i ∈ [.srst, .envOn, .envOff, .envSetadsr, .envSetfade, .envPlay]
    · simp only [List.mem_cons, List.not_mem_nil, or_false] at henv
      rcases henv with rfl | rfl | rfl | rfl | rfl | rfl
      · cases hexec; rfl
      · exact absurd rfl hon
      · cases hoff.symm.trans hexec; exact hfin
      · cases hexec; exact hfin
      · cases hexec; exact hfin
      · exact (exec_envPlay_of_finished hfin hexec).1
    · obtain ⟨-, -, -, -, -, -, -, -, -, hkeeps, -⟩ := commandsWriteOnlyTheirRegisters i s t hexec
      rw [hkeeps henv, hfin]

end Sys2Proof.Machine
end

section
/-! SUPPORT. What ENV_PLAY writes (42_envelope R441 to R444): words at the start of a window, the mix into DST, and the
samples of a state whose other units differ. -/

namespace Sys2Proof.Machine

/-! ### Words at the start of a window -/

/-- After a block written at the start of a window of words, its elements are the block's words and every byte outside
them stays. -/
theorem window_after_writeBlock {s t : State} {w : Window} (hw : w ≠ .smp) {ws : List Word} (hinst : t.inst = s.inst)
    (hmem : t.mem = (writeBlock s w 0 ws).mem) (hepoch : t.epoch = s.epoch)
    (hfit : ws.length ≤ windowDepth s.inst w) :
    (∀ i, i < ws.length → readElem t w i = ws.getD i 0) ∧
    (∀ a, Spec.outside w ws.length a → byteAt t a = byteAt s a) := by
  constructor
  · intro i hi
    have helem := readElem_writeBlock_inside s w hw 0 i ws hi (by rw [Nat.zero_add]; exact hi.trans_le hfit)
    rw [Nat.zero_add] at helem
    rw [readElem_congr (writeBlock s w 0 ws) t hinst hmem hepoch, helem, List.getD_eq_getElem _ _ hi]
  · intro a ha
    have hbyte : byteAt t a = byteAt (writeBlock s w 0 ws) a := by
      unfold byteAt
      rw [hmem, hepoch, writeBlock_epoch]
    have hmin : Nat.min ws.length (windowDepth s.inst w - 0) = ws.length := Nat.min_eq_left hfit
    rw [hbyte, byteAt_writeBlock_outside s w 0 ws a (by rw [hmin]; exact ha)]

/-! ### The mix into DST -/

/-- In append mode each sample is added to what stood there (42 R444). -/
theorem mixSamples_getD_append (base : Nat) {old new : List Word} (hlen : old.length = new.length) {i : Nat}
    (hi : i < new.length) :
    (mixSamples true base old new).getD i 0 = F32.add (base + i) (old.getD i 0) (new.getD i 0) := by
  have hi' : i < old.length := hlen ▸ hi
  simp [mixSamples, List.getD, hi, hi']

/-- What `WRITE` leaves in DST, element by element, and the bytes around it (42 R444). -/
theorem writeSamples_dst {s : State} {xs : List Word} (hfit : xs.length ≤ s.inst.capDst.toNat) :
    (s.env.append = false → ∀ i, i < xs.length → readElem (writeSamples xs s) .dst i = xs.getD i 0) ∧
    (s.env.append = true → ∀ i, i < xs.length →
      readElem (writeSamples xs s) .dst i = F32.add (s.draws + i) (readElem s .dst i) (xs.getD i 0)) ∧
    (∀ a, Spec.outside .dst xs.length a → byteAt (writeSamples xs s) a = byteAt s a) := by
  have hold : (readBlock s .dst 0 xs.length).length = xs.length := readBlock_length ..
  have hmix := mixSamples_length s.env.append s.draws _ xs hold
  obtain ⟨helem, hbyte⟩ := window_after_writeBlock (s := s) (t := writeSamples xs s) (w := .dst) (by decide) rfl rfl rfl
    (hmix.trans_le hfit)
  rw [hmix] at helem hbyte
  refine ⟨fun happend i hi => ?_, fun happend i hi => ?_, hbyte⟩
  · rw [helem i hi, happend]
    rfl
  · rw [helem i hi, happend, mixSamples_getD_append _ hold hi, List.getD, readBlock_getElem? s .dst 0 _ i hi,
      Nat.zero_add, Option.getD_some]

/-! ### Samples beside another RRC cursor -/

/-- A sample does not depend on the RRC registers, and leaves them (42 R422). -/
theorem envSample_setRrc (c : Rrc) (s : State) :
    envSample { s with rrc := c } = ((envSample s).1, { (envSample s).2 with rrc := c }) := by
  unfold envSample
  simp only []
  split
  · rfl
  split
  · rfl
  split
  · rfl
  · rfl

/-- Neither does a run of samples (42 R442). -/
theorem envSamples_setRrc (c : Rrc) (n : Nat) (s : State) :
    envSamples n { s with rrc := c } = ((envSamples n s).1, { (envSamples n s).2 with rrc := c }) := by
  induction n generalizing s with
  | zero => rfl
  | succ n ih =>
    obtain ⟨o, t, h⟩ : ∃ o t, envSample s = (o, t) := ⟨_, _, rfl⟩
    have h' := envSample_setRrc c s
    rw [h] at h'
    cases o with
    | none => rw [envSamples_of_none n h, envSamples_of_none n h']
    | some x => rw [envSamples_of_some n h, envSamples_of_some n h', ih]

/-- What a run of samples leaves beside the envelope and the draws. -/
theorem envSamples_state (n : Nat) (s : State) :
    (envSamples n s).2 = { s with env := (envSamples n s).2.env, draws := (envSamples n s).2.draws } := by
  obtain ⟨e, h⟩ := envSamples_frame n s
  rw [h]

/-- The append bit of a run of samples. -/
theorem envSamples_append (n : Nat) (s : State) : (envSamples n s).2.env.append = s.env.append := by
  obtain ⟨⟨happend, -⟩, -⟩ := (envParams_eq_iff _ _).1 (envParams_envSamples n s)
  exact happend

/-! ### ENV_PLAY by its guards -/

/-- With both references, a running note and a valid configuration for the block, ENV_PLAY plays (42 R441). -/
theorem exec_envPlay_of_valid {s : State} {n : Nat} (hn : s.arg.a0.toNat = n) (hlen : n ≤ s.inst.capDst.toNat)
    (hsmp : s.env.smpv = true) (hdst : s.env.dstv = true) (hphase : s.env.phase ≠ .finished)
    (hvalid : s.rrc.valid = true) (hblk : s.rrc.nblk = s.arg.a0) : exec .envPlay s = .next (playPath n s) := by
  rcases exec_envPlay_cases s n hn.symm with ⟨hlong, _⟩ | ⟨_, hnull, _⟩ | ⟨_, _, hfin, _⟩ | ⟨_, _, _, hdue, _⟩ |
    ⟨_, _, _, _, _, heq⟩
  · exact absurd hlen (Nat.not_le.2 hlong)
  · rw [hsmp, hdst] at hnull
    exact absurd hnull (by decide)
  · exact absurd hfin hphase
  · rw [hvalid] at hdue
    exact absurd (hdue.resolve_left (by decide)) (not_not.2 hblk)
  · exact heq

/-- Without one it sets the rate controller up first (42 R441). -/
theorem exec_envPlay_of_due {s : State} {n : Nat} (hn : s.arg.a0.toNat = n) (hlen : n ≤ s.inst.capDst.toNat)
    (hsmp : s.env.smpv = true) (hdst : s.env.dstv = true) (hphase : s.env.phase ≠ .finished)
    (hdue : s.rrc.valid = false ∨ s.rrc.nblk ≠ s.arg.a0) :
    (∃ t, rrcSetup s.rrc.upreq s.rrc.downreq n s = .ok t ∧ exec .envPlay s = .next (playPath n t)) ∨
    (∃ t, rrcSetup s.rrc.upreq s.rrc.downreq n s = .error t ∧
      exec .envPlay s = .next (raiseIn .einitcap .envPlay t)) := by
  rcases exec_envPlay_cases s n hn.symm with ⟨hlong, _⟩ | ⟨_, hnull, _⟩ | ⟨_, _, hfin, _⟩ | ⟨_, _, _, _, hsetup⟩ |
    ⟨_, _, _, hvalid, hblk, _⟩
  · exact absurd hlen (Nat.not_le.2 hlong)
  · rw [hsmp, hdst] at hnull
    exact absurd hnull (by decide)
  · exact absurd hfin hphase
  · exact hsetup
  · rw [hvalid] at hdue
    exact absurd hblk (hdue.resolve_left (by decide))

end Sys2Proof.Machine
end

section
/-! PROOFS. O44, O45: ENV_PLAY without audio and on the 1:1 path (42_envelope R441, R442, R445). -/

namespace Sys2Proof.Machine

/-- Settles O44: the first three ends of ENV_PLAY, each by its guards. -/
theorem envPlayWithoutAudio : Obligations.EnvPlayWithoutAudio := by
  intro s
  rcases exec_envPlay_cases s _ rfl with ⟨hlong, heq⟩ | ⟨hlen, hnull, heq⟩ | ⟨hlen, hrefs, hfin, heq⟩ |
    ⟨hlen, hrefs, hphase, _⟩ | ⟨hlen, hrefs, hphase, _⟩
  · have hnot : ¬s.arg.a0.toNat ≤ s.inst.capDst.toNat := Nat.not_le.2 hlong
    exact ⟨fun _ => heq, fun hlen => absurd hlen hnot, fun hlen => absurd hlen hnot⟩
  · refine ⟨fun hlong => absurd hlen (Nat.not_le.2 hlong), fun _ _ => heq, fun _ hsmp hdst _ => ?_⟩
    rw [hsmp, hdst] at hnull
    exact absurd hnull (by decide)
  · exact ⟨fun hlong => absurd hlen (Nat.not_le.2 hlong), fun _ hnull => absurd hnull hrefs, fun _ _ _ _ => heq⟩
  · exact ⟨fun hlong => absurd hlen (Nat.not_le.2 hlong), fun _ hnull => absurd hnull hrefs,
      fun _ _ _ hfin => absurd hfin hphase⟩
  · exact ⟨fun hlong => absurd hlen (Nat.not_le.2 hlong), fun _ hnull => absurd hnull hrefs,
      fun _ _ _ hfin => absurd hfin hphase⟩

/-- Settles O45: the samples leave the memory, so DST is mixed with what stood in it before the command. -/
theorem envPlayDirectWritesTheSamples : Obligations.EnvPlayDirectWritesTheSamples := by
  rintro s n k xs hn hlen hsmp hdst hphase hvalid hblk hbyp rfl rfl
  have hexec := exec_envPlay_of_valid hn hlen hsmp hdst hphase hvalid hblk
  rw [playPath, if_pos hbyp, playDirect] at hexec
  have hcount := envSamples_length_le n s
  have hstate := envSamples_state n s
  have hold : ∀ i, readElem (envSamples n s).2 .dst i = readElem s .dst i :=
    (keepsWindow_envSamples .dst n s).readElem_eq
  have hbyteOld : ∀ a, byteAt (envSamples n s).2 a = byteAt s a := fun a => by rw [hstate]; rfl
  have hcap : (envSamples n s).2.inst = s.inst := by rw [hstate]
  obtain ⟨hplace, hadd, hbyte⟩ := writeSamples_dst (s := (envSamples n s).2) (xs := (envSamples n s).1)
    (by rw [hcap]; exact hcount.trans hlen)
  rw [envSamples_append] at hplace hadd
  refine ⟨_, hexec, ?frame, hcount, rfl, hplace, fun happend i hi => ?added,
    fun a ha => (hbyte a ha).trans (hbyteOld a)⟩
  case frame =>
    obtain ⟨m, q, hframe⟩ := writeSamples_frame (envSamples n s).1 (envSamples n s).2
    rw [hframe, hstate]
  case added => rw [hadd happend i hi, hold]

end Sys2Proof.Machine
end

section
/-! SUPPORT. The resample path of ENV_PLAY (42_envelope R443): the chunk as the engine reads it back from IN, and the
block on its way through OUT into DST. -/

namespace Sys2Proof.Machine

/-- A window whose first elements are the words of a list reads back as the list. -/
theorem readBlock_eq_of_elems {t : State} {w : Window} {ws : List Word}
    (helem : ∀ i, i < ws.length → readElem t w i = ws.getD i 0) : readBlock t w 0 ws.length = ws := by
  refine List.ext_getElem (readBlock_length ..) fun i hi hi' => ?_
  rw [readBlock_length] at hi
  have hread := readBlock_getElem? t w 0 ws.length i hi
  rw [List.getElem?_eq_getElem (by rw [readBlock_length]; exact hi), Nat.zero_add, helem i hi,
    List.getD_eq_getElem _ _ hi'] at hread
  exact Option.some.inj hread

/-- An apply leaves the delivered block in OUT and every byte outside it (40 R270). -/
theorem applyFilter_out (numIn : Nat) {s : State} (hfit : s.rse.n.toNat ≤ s.inst.capOut.toNat) :
    (∀ i, i < s.rse.n.toNat → readElem (applyFilter numIn s) .out i = (available numIn s).getD i 0) ∧
    (∀ a, Spec.outside .out s.rse.n.toNat a → byteAt (applyFilter numIn s) a = byteAt s a) := by
  obtain ⟨hblock, hsamples⟩ := deliver_block s.rse.n.toNat s.rse.offmax.toNat (available numIn s)
  obtain ⟨helem, hbyte⟩ := out_after_writeBlock (s := s) (t := applyFilter numIn s)
    (ws := (deliver s.rse.n.toNat s.rse.offmax.toNat (available numIn s)).block) rfl rfl rfl (hblock.trans_le hfit)
  rw [hblock] at helem hbyte
  exact ⟨fun i hi => (helem i hi).trans (hsamples i hi), hbyte⟩

/-- The end of the resample path: an apply, and its block from OUT to DST (42 R443). -/
def deliverBlock (n numIn : Nat) (s : State) : State :=
  writeSamples (readBlock (applyFilter numIn s) .out 0 n) (applyFilter numIn s)

/-- The engine it leaves (40 R256, R257, R270). -/
theorem deliverBlock_engine (n : Nat) {numIn : Nat} {s : State} {chunk : List Word}
    (hread : readBlock s .inp 0 numIn = chunk) :
    (deliverBlock n numIn s).rse =
      { s.rse with carrybuf := ((available numIn s).drop s.rse.n.toNat).take s.rse.offmax.toNat
                   carry := (deliverBlock n numIn s).rse.carry, outcnt := s.rse.n
                   dph := (deliverBlock n numIn s).rse.dph
                   hist := (s.rse.hist ++ chunk).drop ((s.rse.hist ++ chunk).length - s.rse.h.toNat) } ∧
    (deliverBlock n numIn s).rse.carry.toNat = (deliverBlock n numIn s).rse.carrybuf.length ∧
    (1 ≤ s.rse.d.toNat → ((deliverBlock n numIn s).rse.dph.toNat : Int) =
      ((s.rse.dph.toNat : Int) - s.rse.u.toNat * numIn) % s.rse.d.toNat) := by
  subst hread
  refine ⟨?_, (applyFilter_carry numIn s).1, fun hd => ?_⟩
  · rw [← applyFilter_carrybuf]
    rfl
  · rw [← (nextPhase_spec s.rse.dph.toNat s.rse.u.toNat numIn s.rse.d.toNat hd).1, ← applyFilter_dph numIn hd]
    rfl

/-- It leaves the block in OUT and mixes it into DST, and leaves every other byte and so the chunk in IN (42 R443,
R444). -/
theorem deliverBlock_windows {n : Nat} (numIn : Nat) {s : State} (hp : s.inst.legal = true) (hn : s.rse.n.toNat = n)
    (hout : n ≤ s.inst.capOut.toNat) (hdst : n ≤ s.inst.capDst.toNat) :
    (∀ i, readElem (deliverBlock n numIn s) .inp i = readElem s .inp i) ∧
    (∀ i, i < n → readElem (deliverBlock n numIn s) .out i = (available numIn s).getD i 0) ∧
    (s.env.append = false →
      ∀ i, i < n → readElem (deliverBlock n numIn s) .dst i = (available numIn s).getD i 0) ∧
    (s.env.append = true → ∀ i, i < n →
      ∃ q, readElem (deliverBlock n numIn s) .dst i = F32.add q (readElem s .dst i) ((available numIn s).getD i 0)) ∧
    (∀ a, Spec.outside .out n a → Spec.outside .dst n a → byteAt (deliverBlock n numIn s) a = byteAt s a) := by
  subst hn
  obtain ⟨hblock, hbytes⟩ := applyFilter_out numIn hout
  have hlen : (readBlock (applyFilter numIn s) .out 0 s.rse.n.toNat).length = s.rse.n.toNat := readBlock_length ..
  have hread : ∀ i, i < s.rse.n.toNat →
      (readBlock (applyFilter numIn s) .out 0 s.rse.n.toNat).getD i 0 = (available numIn s).getD i 0 := fun i hi => by
    rw [List.getD, readBlock_getElem? _ .out 0 _ i hi, Nat.zero_add, Option.getD_some, hblock i hi]
  obtain ⟨hplace, hadd, hbytes'⟩ := writeSamples_dst (s := applyFilter numIn s) (hlen.trans_le hdst)
  rw [hlen] at hplace hadd hbytes'
  have hkeeps : ∀ {w : Window}, w ≠ .out → KeepsWindow w s (applyFilter numIn s) := fun hw =>
    keepsWindow_applyFilter hp hw numIn
  have hkeeps' : ∀ {w : Window}, w ≠ .dst →
      KeepsWindow w (applyFilter numIn s) (deliverBlock s.rse.n.toNat numIn s) := fun hw =>
    keepsWindow_writeSamples (s := applyFilter numIn s) hp hw _
  refine ⟨fun i => ?inp, fun i hi => ?out, fun happend i hi => ?place,
    fun happend i hi => ⟨(applyFilter numIn s).draws + i, ?add⟩,
    fun a ho hd => (hbytes' a hd).trans (hbytes a ho)⟩
  case inp => exact ((hkeeps (by decide)).trans (hkeeps' (by decide))).readElem_eq i
  case out => rw [(hkeeps' (by decide)).readElem_eq i, hblock i hi]
  case place => rw [deliverBlock, hplace happend i hi, hread i hi]
  case add => rw [deliverBlock, hadd happend i hi, hread i hi, (hkeeps (by decide)).readElem_eq i]

/-- The state in which the resample path applies the engine: the samples taken, the RRC cursor moved, and the chunk in
IN (42 R443). -/
def chunkFed (c : Rrc) (chunk : List Word) (u : State) : State := writeBlock { u with rrc := c } .inp 0 chunk

/-- The engine reads the chunk back from IN (20_memory R154). -/
theorem readBlock_chunkFed (c : Rrc) {chunk : List Word} {u : State} (hfit : chunk.length ≤ u.inst.capIn.toNat) :
    readBlock (chunkFed c chunk u) .inp 0 chunk.length = chunk ∧
    (∀ i, i < chunk.length → readElem (chunkFed c chunk u) .inp i = chunk.getD i 0) ∧
    (∀ a, Spec.outside .inp chunk.length a → byteAt (chunkFed c chunk u) a = byteAt u a) := by
  obtain ⟨helem, hbyte⟩ := window_after_writeBlock (s := { u with rrc := c }) (t := chunkFed c chunk u) (w := .inp)
    (by decide) rfl rfl rfl hfit
  exact ⟨readBlock_eq_of_elems helem, helem, hbyte⟩

/-- The resample path by the samples of the state before it (42 R443). -/
theorem playResample_eq {s u : State} {n numIn : Nat} {xs : List Word} (hdue : numIn = rrcDue s)
    (hrun : envSamples numIn s = (xs, u)) :
    playResample n s = deliverBlock n numIn
      (chunkFed (rrcAdvance s).rrc (xs ++ List.replicate (numIn - xs.length) F32.zero) u) := by
  have hrun' : envSamples numIn (rrcAdvance s) = (xs, { u with rrc := (rrcAdvance s).rrc }) := by
    have h := envSamples_setRrc (rrcAdvance s).rrc numIn s
    rwa [hrun] at h
  simp only [playResample, ← hdue, hrun']
  rfl

end Sys2Proof.Machine
end

section
/-! PROOFS. O46: ENV_PLAY on the resample path (42_envelope R443, R444). -/

namespace Sys2Proof.Machine

/-- Settles O46: the chunk passes IN, the engine and OUT on its way to DST, and each step leaves the other windows. -/
theorem envPlayResampleFiltersTheSamples : Obligations.EnvPlayResampleFiltersTheSamples := by
  rintro s u n numIn chunk av xs hp hn hlen hsmp hdst hphase hvalid hblk hcyc hbyp hrn hdue hin hout hrun hchunk hav
  have hexec := exec_envPlay_of_valid hn hlen hsmp hdst hphase hvalid hblk
  have hdue' : numIn = rrcDue s := by rw [hdue, rrcDue, hblk, hn]
  rw [playPath, if_neg (by rw [hbyp]; decide), playResample_eq hdue' hrun] at hexec
  -- the samples change the envelope and take draws alone
  have hcount := envSamples_length_le numIn s
  have hstate := envSamples_state numIn s
  have happend := envSamples_append numIn s
  rw [hrun] at hcount hstate happend
  obtain ⟨e, he⟩ : ∃ e, e = u.env := ⟨_, rfl⟩
  obtain ⟨q, hq⟩ : ∃ q, q = u.draws := ⟨_, rfl⟩
  simp only [← he, ← hq] at hstate happend hav ⊢
  subst hstate
  -- the chunk as the engine reads it
  have hlength : chunk.length = numIn := by
    rw [hchunk, List.length_append, List.length_replicate]
    exact Nat.add_sub_of_le hcount
  have hexec' : exec .envPlay s = .next
      (deliverBlock n numIn (chunkFed (rrcAdvance s).rrc chunk { s with env := e, draws := q })) := by
    rw [hexec, hchunk]
    rfl
  obtain ⟨hread, helem, hbytes⟩ := readBlock_chunkFed (rrcAdvance s).rrc (u := { s with env := e, draws := q })
    (hlength.trans_le hin)
  have hkeeps : KeepsWindow .dst s (chunkFed (rrcAdvance s).rrc chunk { s with env := e, draws := q }) :=
    .of_writeBlock (w' := .inp) (ws := chunk) hp (by decide) rfl rfl rfl
  rw [hlength] at hread helem hbytes
  -- the apply and the two copies of its block
  have hn' : s.rse.n.toNat = n := by rw [hrn, hn]
  have havail : available numIn (chunkFed (rrcAdvance s).rrc chunk { s with env := e, draws := q }) = av := by
    rw [available, hread, hav]
    rfl
  obtain ⟨hinp, hblock, hplace, hadd, hrest⟩ := deliverBlock_windows (n := n) numIn
    (s := chunkFed (rrcAdvance s).rrc chunk { s with env := e, draws := q }) hp hn' hout hlen
  obtain ⟨hengine, hcarry, hphase'⟩ := deliverBlock_engine n hread
  have hstatus := applyFilter_status numIn (chunkFed (rrcAdvance s).rrc chunk { s with env := e, draws := q })
  rw [havail] at hblock hplace hadd hengine hstatus
  refine ⟨_, hexec', rfl, ?engine, hcarry, hphase', ?cursor, ?status, fun i hi => ?chunk, hblock,
    fun ha => hplace (happend.trans ha), fun ha i hi => ?added, fun a hi ho hd => ?bytes⟩
  case engine =>
    rw [← hn']
    exact hengine
  case cursor => exact resultU32_toNat ((Nat.mod_lt _ hcyc).trans s.rrc.cyc.isLt)
  case status =>
    rw [← hn']
    exact hstatus
  case chunk => rw [hinp, helem i hi]
  case added =>
    obtain ⟨q', hq'⟩ := hadd (happend.trans ha) i hi
    exact ⟨q', by rw [hq', hkeeps.readElem_eq]⟩
  case bytes =>
    rw [hrest a ho hd, hbytes a hi]
    rfl

end Sys2Proof.Machine
end

section
/-! PROOFS. O47: an ENV_PLAY that must reconfigure (42_envelope R441, 41_rate_controller R357). -/

namespace Sys2Proof.Machine

/-- The answer of a set-up with other operands in its state. -/
def answerWithArg (a : ArgRegs) : Except State State → Except State State
  | .ok t => .ok { t with arg := a }
  | .error t => .error { t with arg := a }

/-- An initialisation does not read the operand registers, and leaves them (40 R261). -/
theorem engineInit_setArg (up down n klen : Nat) (a : ArgRegs) (s : State) :
    engineInit up down n klen { s with arg := a } = answerWithArg a (engineInit up down n klen s) := by
  simp only [engineInit, apply_ite (answerWithArg a)]
  rfl

theorem answerWithArg_eq_ok {a : ArgRegs} {o : Except State State} {t' : State} (h : answerWithArg a o = .ok t') :
    ∃ t, o = .ok t ∧ t' = { t with arg := a } := by
  cases o with
  | ok t => exact ⟨t, rfl, (Except.ok.inj h).symm⟩
  | error t => cases h

theorem answerWithArg_eq_error {a : ArgRegs} {o : Except State State} {t' : State} (h : answerWithArg a o = .error t') :
    ∃ t, o = .error t ∧ t' = { t with arg := a } := by
  cases o with
  | ok t => cases h
  | error t => exact ⟨t, rfl, (Except.error.inj h).symm⟩

/-- Neither does `RRC_SETUP` (41 R351). -/
theorem rrcSetup_setArg (upW downW : Word) (n : Nat) (a : ArgRegs) (s : State) :
    rrcSetup upW downW n { s with arg := a } = answerWithArg a (rrcSetup upW downW n s) := by
  have hprepare : rrcPrepare upW downW { s with arg := a } = { rrcPrepare upW downW s with arg := a } := rfl
  simp only [rrcSetup, hprepare, engineInit_setArg]
  cases engineInit (clampFactor (operandS32 upW)) (clampFactor (operandS32 downW)) n
    (selectedKernel s.inst s.draws (clampFactor (operandS32 upW)) (clampFactor (operandS32 downW))).length
    (rrcPrepare upW downW s) <;> rfl

/-- RRC_CONFIG with the kept request is the set-up of ENV_PLAY, beside other operands (41 R350, R357). -/
theorem exec_rrcConfig_keptRequest {s c : State} {a : ArgRegs} (hup : a.a0 = s.rrc.upreq) (hdown : a.a1 = s.rrc.downreq)
    (hexec : exec .rrcConfig { s with arg := a } = .next c) :
    (∃ t, rrcSetup s.rrc.upreq s.rrc.downreq a.a2.toNat s = .ok t ∧ c = { t with arg := a }) ∨
    (∃ t, rrcSetup s.rrc.upreq s.rrc.downreq a.a2.toNat s = .error t ∧
      c = { raiseIn .einitcap .rrcConfig t with arg := a }) := by
  have harg := rrcSetup_setArg a.a0 a.a1 a.a2.toNat a s
  rw [← hup, ← hdown]
  rcases exec_rrcConfig_cases { s with arg := a } with ⟨t', hsetup, heq⟩ | ⟨t', hsetup, heq⟩ <;>
    cases heq.symm.trans hexec
  · obtain ⟨t, hok, rfl⟩ := answerWithArg_eq_ok (harg.symm.trans hsetup)
    exact .inl ⟨t, hok, rfl⟩
  · obtain ⟨t, herr, rfl⟩ := answerWithArg_eq_error (harg.symm.trans hsetup)
    exact .inr ⟨t, herr, rfl⟩

/-- A successful set-up is valid for its block length, and leaves what ENV_PLAY checks before it (41 R351). -/
theorem rrcSetup_ok {upW downW : Word} {n : Nat} {s t : State} (h : rrcSetup upW downW n s = .ok t) :
    t.rrc.valid = true ∧ t.rrc.nblk = resultU32 n ∧ t.arg = s.arg ∧ t.env = s.env ∧ t.inst = s.inst := by
  rcases rrcSetup_cases upW downW n s with ⟨t', hinit, heq⟩ | ⟨t', -, heq⟩ <;> cases heq.symm.trans h
  obtain ⟨e, c, m, hframe | hframe⟩ := engineInit_frame (clampFactor (operandS32 upW))
    (clampFactor (operandS32 downW)) n
    (selectedKernel s.inst s.draws (clampFactor (operandS32 upW)) (clampFactor (operandS32 downW))).length
    (rrcPrepare upW downW s)
  · cases hframe.symm.trans hinit
    exact ⟨rfl, rfl, rfl, rfl, rfl⟩
  · cases hframe.symm.trans hinit

/-- A failed one is invalid and records nothing itself: of STATUS it writes CLAMP alone (41 R351, R352). -/
theorem rrcSetup_error {upW downW : Word} {n : Nat} {s t : State} (h : rrcSetup upW downW n s = .error t) :
    t.rrc.valid = false ∧ t.status = { s.status with clamp := t.status.clamp } ∧ t.arg = s.arg ∧ t.env = s.env := by
  rcases rrcSetup_cases upW downW n s with ⟨t', -, heq⟩ | ⟨t', hinit, heq⟩ <;> cases heq.symm.trans h
  rw [engineInit_error hinit]
  exact ⟨rfl, rfl, rfl, rfl⟩

/-- RECORD leaves CLAMP (60_exceptions R532). -/
theorem statusRecord_clamp (st : Status) (code : ErrorCode) (opc : Byte) :
    (statusRecord st code opc).clamp = st.clamp := by
  rcases statusRecord_cases st code opc with ⟨_, heq⟩ | ⟨_, heq⟩ <;> rw [heq]

/-- Settles O47: both commands run the same set-up, which reads no operand register. -/
theorem envPlayReconfiguresLikeRrcConfig : Obligations.EnvPlayReconfiguresLikeRrcConfig := by
  intro s c hlen hsmp hdst hphase hdue hconfig
  have hplay := exec_envPlay_of_due rfl hlen hsmp hdst hphase hdue
  rcases exec_rrcConfig_keptRequest rfl rfl hconfig with ⟨t, hsetup, rfl⟩ | ⟨t, hsetup, rfl⟩ <;>
    rw [hsetup] at hplay
  · rcases hplay with ⟨t', hok, hexec⟩ | ⟨t', herr, -⟩
    · cases hok
      obtain ⟨hvalid, hblk, harg, henv, hinst⟩ := rrcSetup_ok hsetup
      have hback : { t with arg := s.arg } = t := by rw [← harg]
      have hagain : exec .envPlay t = .next (playPath s.arg.a0.toNat t) :=
        exec_envPlay_of_valid (by rw [harg]) (by rw [hinst]; exact hlen) (by rw [henv, hsmp]) (by rw [henv, hdst])
          (by rw [henv]; exact hphase) hvalid (by rw [hblk, harg]; exact resultU32_operandU32 s.arg.a0)
      refine ⟨fun _ => ?_, fun hinvalid => absurd (hvalid.symm.trans hinvalid) (by decide), henv⟩
      rw [hexec, ← hagain]
      exact congrArg (exec .envPlay) hback.symm
    · cases herr
  · rcases hplay with ⟨t', hok, -⟩ | ⟨t', herr, hexec⟩
    · cases hok
    · cases herr
      obtain ⟨hinvalid, hstatus, harg, henv⟩ := rrcSetup_error hsetup
      refine ⟨fun hvalid => absurd (hinvalid.symm.trans hvalid) (by decide), fun _ => ?_, henv⟩
      have hclamp : (raiseIn .einitcap .rrcConfig t).status.clamp = t.status.clamp := statusRecord_clamp ..
      rw [hexec]
      simp only [hclamp, ← hstatus, ← harg]
      rfl

end Sys2Proof.Machine
end

section
/-! SUPPORT. The cycle in which a command word is performed (43_block_control R502, 70_reset R590): what the host's
transaction of that cycle leaves of the command in flight, and the step as the transaction and then the clock. -/

namespace Sys2Proof.Machine

/-- A transaction that is no fault, outside a power-on reset, and then the clock are the whole of a step (R590). -/
theorem step_of_busCycle {s t : State} {op : BusOp} (hhost : nextCycle s = ⟨false, op⟩)
    (hbus : busCycle (busLatency op (takeCycle s)) op (takeCycle s) = .ok t) : step s = clockCommand t := by
  unfold step runCycle
  rw [hhost]
  simp only [Bool.false_eq_true, if_false, hbus]

/-- While BUSY is 1 no transaction reaches the command in flight (70_reset R591, R592). -/
theorem busCycle_pending {s t : State} {lat : Nat} {op : BusOp} {p : Pending} (hpending : s.pending = some p)
    (hbus : busCycle lat op s = .ok t) : t.pending = some p := by
  cases op with
  | idle => cases hbus; exact hpending
  | read addr =>
    rcases busRead_cases addr s with ⟨_, heq⟩ | ⟨_, _, heq⟩ <;> cases heq.symm.trans hbus
    exact hpending
  | write addr v =>
    cases hbus
    rcases busWrite_cases lat addr v s with ⟨hidle, _⟩ | ⟨_, heq⟩
    · cases hidle.symm.trans hpending
    · rw [heq]; exact hpending

/-- A word that decodes is performed as its command (30_encoding R201). -/
theorem performWord_of_decode_ok {w : Word} {i : Instr} (h : decode w = .ok i) (s : State) :
    performWord w s = exec i s := by
  rw [performWord, h]

/-- The last cycle of a word performs it after the transaction of that cycle (R502, R590). -/
theorem step_of_lastCycle {s t : State} {w : Word} {op : BusOp} (hhost : nextCycle s = ⟨false, op⟩)
    (hpending : s.pending = some ⟨w, 1⟩)
    (hbus : busCycle (busLatency op (takeCycle s)) op (takeCycle s) = .ok t) :
    step s = performWord w { t with pending := none } :=
  (step_of_busCycle hhost hbus).trans (clockCommand_of_last (busCycle_pending (s := takeCycle s) hpending hbus))

/-- A fetch word of 32 bits is the command word itself (log 1). -/
theorem withFetchWord_toNat (s : State) (w : Word) : s.withFetchWord 32 w.toNat = withCommand w s := by
  rw [State.withFetchWord, Nat.mod_eq_of_lt w.isLt, BitVec.ofNat_toNat, BitVec.setWidth_eq]

/-- The state that `withCommand` makes performs the word in its next step, at the state it was made from (log 1). -/
theorem step_withCommand {s : State} (hidle : idle s) (w : Word) : step (withCommand w s) = performWord w s := by
  have hback : { takeCycle (withCommand w s) with pending := none } = s := by
    rw [← (hidle : s.pending = none)]; rfl
  rw [step_of_lastCycle (t := takeCycle (withCommand w s)) (op := .idle) rfl rfl rfl, hback]

end Sys2Proof.Machine
end

section
/-! PROOFS. O3, O16, O18: the step of a command's last cycle (43_block_control R502), SRST (R501) and NOP (R500). -/

namespace Sys2Proof.Machine

/-- Settles O3: the last cycle performs the word after its transaction, and a word that decodes is its command. -/
theorem stepRunsTheDecodedCommand : Obligations.StepRunsTheDecodedCommand := by
  refine ⟨fun s t w i op hhost hpending hdecode hbus => ?transaction, fun s w i hhost hpending hdecode => ?idleBus,
    fun s i hidle => ?fetchWord⟩
  case transaction => exact (step_of_lastCycle hhost hpending hbus).trans (performWord_of_decode_ok hdecode _)
  case idleBus =>
    exact (step_of_lastCycle (t := takeCycle s) hhost hpending rfl).trans (performWord_of_decode_ok hdecode _)
  case fetchWord =>
    rw [withFetchWord_toNat, step_withCommand hidle, performWord_of_decode_ok (decode_encode i)]

/-- Settles O16: SRST resets the registers, and what gives a byte, the memory and the power-on, is kept. -/
theorem srstResetsRegistersAndKeepsMemory : Obligations.SrstResetsRegistersAndKeepsMemory := by
  intro s
  have hstatus : statusWord false (resetRegisters s).status = 0 := (by decide : statusWord false Status.zero = 0)
  have hbytes : ∀ a, byteAt (resetRegisters s) a = byteAt s a := fun a => by
    rw [byteAt, resetRegisters_mem, resetRegisters_epoch, byteAt]
  exact ⟨resetRegisters s, rfl, rfl, hstatus, hbytes⟩

/-- Settles O18: NOP answers the state it was given. -/
theorem nopHasNoEffect : Obligations.NopHasNoEffect := fun _ => rfl

end Sys2Proof.Machine
end

section
/-! PROOFS. O58: the error record and the sticky flags across a command (60_exceptions R532, R534). The shared operations
only raise UNR, OVR and CLAMP; after them a command records at most one error. -/

namespace Sys2Proof.Machine

/-! ### Flags that only rise -/

/-- STATUS after work that records no error: UNR, OVR and CLAMP may rise, and the rest is the same. -/
structure FlagsRise (st st' : Status) : Prop where
  coll : st'.coll = st.coll
  err : st'.err = st.err
  errmult : st'.errmult = st.errmult
  errcode : st'.errcode = st.errcode
  erropc : st'.erropc = st.erropc
  unr : st.unr = true → st'.unr = true
  ovr : st.ovr = true → st'.ovr = true
  clamp : st.clamp = true → st'.clamp = true

theorem FlagsRise.refl (st : Status) : FlagsRise st st := ⟨rfl, rfl, rfl, rfl, rfl, id, id, id⟩

theorem FlagsRise.of_eq {st st' : Status} (h : st' = st) : FlagsRise st st' := h ▸ .refl st

theorem FlagsRise.trans {st st' st'' : Status} (h : FlagsRise st st') (h' : FlagsRise st' st'') : FlagsRise st st'' where
  coll := h'.coll.trans h.coll
  err := h'.err.trans h.err
  errmult := h'.errmult.trans h.errmult
  errcode := h'.errcode.trans h.errcode
  erropc := h'.erropc.trans h.erropc
  unr := h'.unr ∘ h.unr
  ovr := h'.ovr ∘ h.ovr
  clamp := h'.clamp ∘ h.clamp

/-- A clamped factor raises CLAMP alone (41 R352). -/
theorem flagsRise_statusClamp (st : Status) (clamped : Bool) : FlagsRise st (statusClamp st clamped) :=
  { FlagsRise.refl st with clamp := Bool.or_inl }

/-- A filter apply raises UNR and OVR alone (40 R270). -/
theorem flagsRise_applyFilter (numIn : Nat) (s : State) : FlagsRise s.status (applyFilter numIn s).status := by
  rw [applyFilter_status]
  exact { FlagsRise.refl s.status with unr := Bool.or_inl, ovr := Bool.or_inl }

/-- An initialisation leaves STATUS; its caller records EINITCAP (40 R261). -/
theorem engineInit_status {up down n klen : Nat} {s t : State}
    (h : engineInit up down n klen s = .ok t ∨ engineInit up down n klen s = .error t) : t.status = s.status := by
  rcases engineInit_cases up down n klen s with ⟨_, _, _, _, _, _, heq⟩ | ⟨_, _, _, _, _, heq⟩ | heq <;>
    rcases h with h | h <;> cases heq.symm.trans h <;> rfl

/-- `RRC_SETUP` raises CLAMP alone, whether it succeeds or fails (41 R351, R352). -/
theorem flagsRise_rrcSetup {upW downW : Word} {n : Nat} {s t : State}
    (h : rrcSetup upW downW n s = .ok t ∨ rrcSetup upW downW n s = .error t) : FlagsRise s.status t.status := by
  have hprepare : FlagsRise s.status (rrcPrepare upW downW s).status := flagsRise_statusClamp ..
  rcases rrcSetup_cases upW downW n s with ⟨t', hinit, heq⟩ | ⟨t', hinit, heq⟩ <;>
    rcases h with h | h <;> cases heq.symm.trans h
  · have hengine : t'.status = (rrcPrepare upW downW s).status := engineInit_status (.inl hinit)
    exact hprepare.trans (.of_eq hengine)
  · exact hprepare.trans (.of_eq (engineInit_status (.inr hinit)))

/-- The samples of an envelope leave STATUS (42 R422). -/
theorem envSamples_status (n : Nat) (s : State) : (envSamples n s).2.status = s.status := by
  obtain ⟨e, heq⟩ := envSamples_frame n s
  rw [heq]

/-- A play raises UNR and OVR alone, and where it resamples (42 R442, R443). -/
theorem flagsRise_playPath (n : Nat) (s : State) : FlagsRise s.status (playPath n s).status := by
  unfold playPath
  split
  · exact .of_eq (envSamples_status n s)
  · have hsamples : FlagsRise s.status (envSamples (rrcDue s) (rrcAdvance s)).2.status :=
      .of_eq (envSamples_status (rrcDue s) (rrcAdvance s))
    exact hsamples.trans (flagsRise_applyFilter (rrcDue s) (writeBlock _ .inp 0 _))

/-! ### What a command leaves of STATUS -/

/-- STATUS after the command with the opcode `opc`: flags rise, and then at most one error is recorded, which is never
EILLEGAL (60 R531, R532). -/
inductive CommandStatus (opc : Byte) (st : Status) : Status → Prop where
  | completed {st' : Status} (h : FlagsRise st st') : CommandStatus opc st st'
  | refused {mid : Status} (code : ErrorCode) (hcode : code ≠ .eillegal) (h : FlagsRise st mid) :
      CommandStatus opc st (statusRecord mid code opc)

/-- The codes of R531 without EILLEGAL are 2 to 7. -/
theorem errorCodeByte_range_of_ne_eillegal {code : ErrorCode} (h : code ≠ .eillegal) :
    2 ≤ (errorCodeByte code).toNat ∧ (errorCodeByte code).toNat ≤ 7 := by
  cases code
  case eillegal => exact absurd rfl h
  all_goals decide

section
variable {opc : Byte} {st st' : Status}

/-- COLL is left, and no flag is cleared (R534). -/
theorem CommandStatus.flags (h : CommandStatus opc st st') :
    st'.coll = st.coll ∧ (st.unr = true → st'.unr = true) ∧ (st.ovr = true → st'.ovr = true) ∧
    (st.clamp = true → st'.clamp = true) ∧ (st.errmult = true → st'.errmult = true) := by
  cases h with
  | completed h => exact ⟨h.coll, h.unr, h.ovr, h.clamp, h.errmult.trans⟩
  | refused code _ h =>
    rcases statusRecord_cases _ code opc with ⟨_, heq⟩ | ⟨_, heq⟩ <;> rw [heq]
    · exact ⟨h.coll, h.unr, h.ovr, h.clamp, h.errmult.trans⟩
    · exact ⟨h.coll, h.unr, h.ovr, h.clamp, fun _ => rfl⟩

/-- The first error wins (R532). -/
theorem CommandStatus.of_err (h : CommandStatus opc st st') (herr : st.err = true) :
    st'.err = true ∧ st'.errcode = st.errcode ∧ st'.erropc = st.erropc := by
  cases h with
  | completed h => exact ⟨h.err.trans herr, h.errcode, h.erropc⟩
  | refused code _ h =>
    rcases statusRecord_cases _ code opc with ⟨hclear, _⟩ | ⟨hset, heq⟩
    · exact absurd (hclear.symm.trans (h.err.trans herr)) Bool.false_ne_true
    · rw [heq]
      exact ⟨hset, h.errcode, h.erropc⟩

/-- With no record yet, the command completes without one or writes its own (R532). -/
theorem CommandStatus.of_no_err (h : CommandStatus opc st st') (herr : st.err = false) :
    st'.errmult = st.errmult ∧
    ((st'.err = false ∧ st'.errcode = st.errcode ∧ st'.erropc = st.erropc) ∨
      (st'.err = true ∧ st'.erropc = opc ∧ 2 ≤ st'.errcode.toNat ∧ st'.errcode.toNat ≤ 7)) := by
  cases h with
  | completed h => exact ⟨h.errmult, .inl ⟨h.err.trans herr, h.errcode, h.erropc⟩⟩
  | refused code hcode h =>
    rcases statusRecord_cases _ code opc with ⟨_, heq⟩ | ⟨hset, _⟩
    · rw [heq]
      exact ⟨h.errmult, .inr ⟨rfl, rfl, errorCodeByte_range_of_ne_eillegal hcode⟩⟩
    · exact absurd ((h.err.trans herr).symm.trans hset) Bool.false_ne_true

end

/-! ### Commands -/

theorem commandStatus_rseInit {s t : State} (hexec : exec .rseInit s = .next t) :
    CommandStatus (opcodeOf (encode .rseInit)) s.status t.status := by
  rcases exec_rseInit_cases s with ⟨t', hok, heq⟩ | ⟨_, heq⟩ <;> cases heq.symm.trans hexec
  · exact .completed (.of_eq (engineInit_status (.inl hok)))
  · exact .refused .einitcap (by decide) (.refl _)

theorem commandStatus_rseApply {s t : State} (hexec : exec .rseApply s = .next t) :
    CommandStatus (opcodeOf (encode .rseApply)) s.status t.status := by
  rcases exec_rseApply_cases s with ⟨_, heq⟩ | ⟨_, _, heq⟩ | ⟨_, _, _, heq⟩ | ⟨_, _, _, heq⟩ <;>
    cases heq.symm.trans hexec
  · exact .refused .enotinit (by decide) (.refl _)
  · exact .refused .einlen (by decide) (.refl _)
  · exact .completed (.of_eq (applyBypass_status ..))
  · exact .completed (flagsRise_applyFilter _ s)

theorem commandStatus_rseLenin {s t : State} (hexec : exec .rseLenin s = .next t) :
    CommandStatus (opcodeOf (encode .rseLenin)) s.status t.status := by
  rcases exec_rseLenin_cases s _ rfl with ⟨_, heq⟩ | ⟨_, _, heq⟩ | ⟨_, _, heq⟩ <;> cases heq.symm.trans hexec
  · exact .refused .enotinit (by decide) (.refl _)
  · exact .refused .erange (by decide) (.refl _)
  · exact .completed (.refl _)

theorem commandStatus_rseLenout {s t : State} (hexec : exec .rseLenout s = .next t) :
    CommandStatus (opcodeOf (encode .rseLenout)) s.status t.status := by
  rcases exec_rseLenout_cases s _ rfl with ⟨_, heq⟩ | ⟨_, _, heq⟩ | ⟨_, _, heq⟩ <;> cases heq.symm.trans hexec
  · exact .refused .enotinit (by decide) (.refl _)
  · exact .refused .erange (by decide) (.refl _)
  · exact .completed (.refl _)

theorem commandStatus_rrcConfig {s t : State} (hexec : exec .rrcConfig s = .next t) :
    CommandStatus (opcodeOf (encode .rrcConfig)) s.status t.status := by
  rcases exec_rrcConfig_cases s with ⟨t', hsetup, heq⟩ | ⟨t', hsetup, heq⟩ <;> cases heq.symm.trans hexec
  · exact .completed (flagsRise_rrcSetup (.inl hsetup))
  · exact .refused .einitcap (by decide) (flagsRise_rrcSetup (.inr hsetup))

theorem commandStatus_rrcNext {s t : State} (hexec : exec .rrcNext s = .next t) :
    CommandStatus (opcodeOf (encode .rrcNext)) s.status t.status := by
  rcases exec_rrcNext_cases s with ⟨_, heq⟩ | ⟨_, heq⟩ <;> cases heq.symm.trans hexec
  · exact .refused .enotcfg (by decide) (.refl _)
  · exact .completed (.of_eq (rrcAdvance_status s))

theorem commandStatus_envPlay {s t : State} (hexec : exec .envPlay s = .next t) :
    CommandStatus (opcodeOf (encode .envPlay)) s.status t.status := by
  rcases exec_envPlay_cases s _ rfl with ⟨_, heq⟩ | ⟨_, _, heq⟩ | ⟨_, _, _, heq⟩ |
      ⟨_, _, _, _, ⟨t', hsetup, heq⟩ | ⟨t', hsetup, heq⟩⟩ | ⟨_, _, _, _, _, heq⟩ <;>
    cases heq.symm.trans hexec
  · exact .refused .edstlen (by decide) (.refl _)
  · exact .completed (.refl _)
  · exact .completed (.refl _)
  · exact .completed ((flagsRise_rrcSetup (.inl hsetup)).trans (flagsRise_playPath _ t'))
  · exact .refused .einitcap (by decide) (flagsRise_rrcSetup (.inr hsetup))
  · exact .completed (flagsRise_playPath _ s)

/-- Every command but SRST raises flags and records at most one error, under its own opcode (R532, R534). -/
theorem commandStatus_exec {i : Instr} {s t : State} (hi : i ≠ .srst) (hexec : exec i s = .next t) :
    CommandStatus (opcodeOf (encode i)) s.status t.status := by
  cases i
  case srst => exact absurd rfl hi
  case rseInit => exact commandStatus_rseInit hexec
  case rseApply => exact commandStatus_rseApply hexec
  case rseLenin => exact commandStatus_rseLenin hexec
  case rseLenout => exact commandStatus_rseLenout hexec
  case rrcConfig => exact commandStatus_rrcConfig hexec
  case rrcNext => exact commandStatus_rrcNext hexec
  case envPlay => exact commandStatus_envPlay hexec
  case envOff =>
    obtain ⟨v, _, heq⟩ := exec_envOff_frame s
    cases heq.symm.trans hexec
    exact .completed (.refl _)
  case nop | rseDeinit | rseIsbyp | rseGcd | envOn | envSetadsr | envSetfade | envRemain =>
    cases hexec
    exact .completed (.refl _)

/-- Settles O58: what a command leaves of STATUS, with and without an error recorded before it. -/
theorem errorRecordAndStickyFlagsPersist : Obligations.ErrorRecordAndStickyFlagsPersist := by
  intro i s t hi hexec
  have hstatus := commandStatus_exec hi hexec
  obtain ⟨hcoll, hunr, hovr, hclamp, herrmult⟩ := hstatus.flags
  exact ⟨hcoll, hunr, hovr, hclamp, herrmult, hstatus.of_err, hstatus.of_no_err⟩

end Sys2Proof.Machine
end

section
/-! SUPPORT. COLL beside a command (70_reset R592): every shared operation but the reset of the registers, and so every
command but SRST, commutes with setting the flag. -/

namespace Sys2Proof.Machine

/-! ### COLL set in a state, and in what an operation answers -/

/-- The state after a dropped write (R592). -/
def collided (s : State) : State := { s with status := statusCollide s.status }

@[simp] theorem collided_inst (s : State) : (collided s).inst = s.inst := rfl
@[simp] theorem collided_status (s : State) : (collided s).status = { s.status with coll := true } := rfl
@[simp] theorem collided_arg (s : State) : (collided s).arg = s.arg := rfl
@[simp] theorem collided_rse (s : State) : (collided s).rse = s.rse := rfl
@[simp] theorem collided_rrc (s : State) : (collided s).rrc = s.rrc := rfl
@[simp] theorem collided_env (s : State) : (collided s).env = s.env := rfl
@[simp] theorem collided_draws (s : State) : (collided s).draws = s.draws := rfl

/-- The answer of an initialisation with COLL set in its state. -/
def answerCollided : Except State State → Except State State
  | .ok t => .ok (collided t)
  | .error t => .error (collided t)

/-- The outcome of a command with COLL set in its next state. -/
def outcomeCollided : Host.Outcome State Fault Refusal → Host.Outcome State Fault Refusal
  | .next t => .next (collided t)
  | .fault f => .fault f
  | .refused r => .refused r

/-! ### The shared operations -/

/-- RECORD writes the error fields alone (60_exceptions R532). -/
theorem raiseIn_collided (code : ErrorCode) (i : Instr) (s : State) :
    raiseIn code i (collided s) = collided (raiseIn code i s) := by
  have hrecord : ∀ st opc, statusRecord (statusCollide st) code opc = statusCollide (statusRecord st code opc) := by
    intro st opc
    simp only [statusRecord, apply_ite statusCollide]
    rfl
  exact congrArg (fun st => { s with status := st }) (hrecord s.status (opcodeOf (encode i)))

/-- An initialisation neither reads nor writes STATUS (40 R261). -/
theorem engineInit_collided (up down n klen : Nat) (s : State) :
    engineInit up down n klen (collided s) = answerCollided (engineInit up down n klen s) := by
  simp only [engineInit, apply_ite answerCollided]
  rfl

/-- `RRC_SETUP` writes CLAMP alone of STATUS (41 R351, R352). -/
theorem rrcSetup_collided (upW downW : Word) (n : Nat) (s : State) :
    rrcSetup upW downW n (collided s) = answerCollided (rrcSetup upW downW n s) := by
  have hprepare : rrcPrepare upW downW (collided s) = collided (rrcPrepare upW downW s) := rfl
  simp only [rrcSetup, hprepare, collided_inst, collided_draws, engineInit_collided]
  cases engineInit (clampFactor (operandS32 upW)) (clampFactor (operandS32 downW)) n
    (selectedKernel s.inst s.draws (clampFactor (operandS32 upW)) (clampFactor (operandS32 downW))).length
    (rrcPrepare upW downW s) <;> rfl

/-- A sample touches no flag (42 R422). -/
theorem envSample_collided (s : State) : envSample (collided s) = Prod.map id collided (envSample s) := by
  simp only [envSample, collided_env, apply_ite (Prod.map id collided)]
  rfl

/-- Neither does a run of samples (42 R442). -/
theorem envSamples_collided (n : Nat) (s : State) :
    envSamples n (collided s) = Prod.map id collided (envSamples n s) := by
  induction n generalizing s with
  | zero => rfl
  | succ n ih =>
    obtain ⟨o, t, h⟩ : ∃ o t, envSample s = (o, t) := ⟨_, _, rfl⟩
    have h' : envSample (collided s) = (o, collided t) := by rw [envSample_collided, h]; rfl
    cases o with
    | none => rw [envSamples_of_none n h, envSamples_of_none n h']; rfl
    | some x => rw [envSamples_of_some n h, envSamples_of_some n h', ih]; rfl

/-- The windows are read and written beside STATUS (20_memory R151). -/
theorem readBlock_collided (s : State) (w : Window) (i count : Nat) :
    readBlock (collided s) w i count = readBlock s w i count := rfl

theorem writeBlock_collided (s : State) (w : Window) (i : Nat) (ws : List Word) :
    writeBlock (collided s) w i ws = collided (writeBlock s w i ws) := rfl

theorem writeSamples_collided (xs : List Word) (s : State) :
    writeSamples xs (collided s) = collided (writeSamples xs s) := rfl

/-- An apply sets UNR and OVR alone of STATUS (40 R270). -/
theorem applyFilter_collided (numIn : Nat) (s : State) :
    applyFilter numIn (collided s) = collided (applyFilter numIn s) := rfl

/-- Neither path of ENV_PLAY sees COLL (42 R441 to R444). -/
theorem playPath_collided (n : Nat) (s : State) : playPath n (collided s) = collided (playPath n s) := by
  have hdirect : playDirect n (collided s) = collided (playDirect n s) := by
    simp only [playDirect, envSamples_collided, Prod.map_fst, Prod.map_snd, id, writeSamples_collided]
  have hresample : playResample n (collided s) = collided (playResample n s) := by
    have hdue : rrcDue (collided s) = rrcDue s := rfl
    have hadvance : rrcAdvance (collided s) = collided (rrcAdvance s) := rfl
    simp only [playResample, hdue, hadvance, envSamples_collided, Prod.map_fst, Prod.map_snd, id, writeBlock_collided,
      applyFilter_collided, readBlock_collided, writeSamples_collided]
  simp only [playPath, collided_rse, hdirect, hresample, apply_ite collided]

/-! ### The commands -/

theorem exec_rseInit_collided (s : State) : exec .rseInit (collided s) = outcomeCollided (exec .rseInit s) := by
  simp only [exec, execRseInit, collided_arg, engineInit_collided]
  cases engineInit (operandU32 s.arg.a0) (operandU32 s.arg.a1) (operandU32 s.arg.a2) (operandU32 s.arg.a3) s with
  | ok t => rfl
  | error t => exact congrArg Host.Outcome.next (raiseIn_collided .einitcap .rseInit t)

theorem exec_rseApply_collided (s : State) : exec .rseApply (collided s) = outcomeCollided (exec .rseApply s) := by
  simp only [exec, execRseApply, raiseIn_collided, apply_ite outcomeCollided]
  rfl

theorem exec_rseLenin_collided (s : State) : exec .rseLenin (collided s) = outcomeCollided (exec .rseLenin s) := by
  simp only [exec, execRseLenin, raiseIn_collided, apply_ite outcomeCollided]
  rfl

theorem exec_rseLenout_collided (s : State) : exec .rseLenout (collided s) = outcomeCollided (exec .rseLenout s) := by
  simp only [exec, execRseLenout, raiseIn_collided, apply_ite outcomeCollided]
  rfl

theorem exec_rrcConfig_collided (s : State) : exec .rrcConfig (collided s) = outcomeCollided (exec .rrcConfig s) := by
  simp only [exec, execRrcConfig, collided_arg, rrcSetup_collided]
  cases rrcSetup s.arg.a0 s.arg.a1 (operandU32 s.arg.a2) s with
  | ok t => rfl
  | error t => exact congrArg Host.Outcome.next (raiseIn_collided .einitcap .rrcConfig t)

theorem exec_rrcNext_collided (s : State) : exec .rrcNext (collided s) = outcomeCollided (exec .rrcNext s) := by
  simp only [exec, execRrcNext, raiseIn_collided, apply_ite outcomeCollided]
  rfl

theorem exec_envOff_collided (s : State) : exec .envOff (collided s) = outcomeCollided (exec .envOff s) := by
  simp only [exec, execEnvOff, collided_env]
  cases s.env.phase <;> rfl

theorem exec_envPlay_collided (s : State) : exec .envPlay (collided s) = outcomeCollided (exec .envPlay s) := by
  simp only [exec, execEnvPlay, collided_inst, collided_arg, collided_rrc, collided_env, raiseIn_collided,
    rrcSetup_collided, playPath_collided, apply_ite outcomeCollided]
  cases rrcSetup s.rrc.upreq s.rrc.downreq (operandU32 s.arg.a0) s with
  | ok t => simp only [answerCollided, playPath_collided, outcomeCollided]; rfl
  | error t => simp only [answerCollided, raiseIn_collided, outcomeCollided]; rfl

/-- No command but SRST sees or clears COLL (R592). -/
theorem exec_collided {i : Instr} (hi : i ≠ .srst) (s : State) : exec i (collided s) = outcomeCollided (exec i s) := by
  cases i
  case srst => exact absurd rfl hi
  case rseInit => exact exec_rseInit_collided s
  case rseApply => exact exec_rseApply_collided s
  case rseLenin => exact exec_rseLenin_collided s
  case rseLenout => exact exec_rseLenout_collided s
  case rrcConfig => exact exec_rrcConfig_collided s
  case rrcNext => exact exec_rrcNext_collided s
  case envOff => exact exec_envOff_collided s
  case envPlay => exact exec_envPlay_collided s
  case nop | rseDeinit | rseIsbyp | rseGcd | envOn | envSetadsr | envSetfade | envRemain => rfl

end Sys2Proof.Machine
end

section
/-! PROOFS. O6: COLL reaches no command's result (70_reset R592, 43_block_control R501). -/

namespace Sys2Proof.Machine

/-- Settles O6: SRST writes the whole of STATUS, and every other command commutes with setting COLL. -/
theorem collisionReachesNoCommand : Obligations.CollisionReachesNoCommand := by
  intro i s t hexec
  by_cases hi : i = .srst
  case pos =>
    subst hi
    cases hexec
    rfl
  case neg =>
    rw [if_neg hi]
    exact (exec_collided hi s).trans (congrArg outcomeCollided hexec)

end Sys2Proof.Machine
end

section
/-! SUPPORT. The cycles of BUSY (70_reset R590 to R592): the cycle of the CMD write, a cycle of an idle bus, a cycle with
a dropped write, and runs of them. -/

namespace Sys2Proof.Machine

/-! ### One cycle -/

/-- LAT counts the cycle of the CMD write (R590). -/
theorem one_le_latency (w : Word) (s : State) : 1 ≤ latency w s := Nat.le_add_right 1 _

/-- LAT does not depend on what the host does next (log 2). -/
theorem latency_takeCycle (w : Word) (s : State) : latency w (takeCycle s) = latency w s := rfl

/-- A write of a word to CMD puts it in flight for LAT cycles, of which this is the first (10_state R52, R590). -/
theorem step_writeCmd {s : State} {addr w : Word} (hidle : idle s) (hcmd : addr.toNat / 4 = 2)
    (hhost : nextCycle s = ⟨false, .write addr w⟩) :
    step s = clockCommand { s with host := s.host.tail, pending := some ⟨w, latency w s⟩ } := by
  rw [step_write_of_idle hidle hhost, locate_eq_reg (r := .cmd) hcmd (by decide), latency_takeCycle]
  rfl

/-- While BUSY is 1 a write anywhere sets COLL and is dropped, and then the clock runs (R591, R592, log 23). -/
theorem step_write_of_busy {s : State} {addr v : Word} (hbusy : ¬idle s) (hhost : nextCycle s = ⟨false, .write addr v⟩) :
    step s = clockCommand { s with host := s.host.tail, status := { s.status with coll := true } } := by
  refine step_of_busCycle hhost ?_
  rcases busWrite_cases (latency v (takeCycle s)) addr v (takeCycle s) with ⟨hidle, _⟩ | ⟨_, heq⟩
  · exact absurd hidle hbusy
  · exact congrArg Except.ok heq

/-! ### Runs -/

/-- The machine behind the host's interface makes the model's steps. -/
theorem core_step : Sys2Proof.core.step = step := rfl

theorem run_one (s : State) : Host.Core.run Sys2Proof.core 1 s = step s := by
  simp only [Host.Core.run, core_step]
  cases step s <;> rfl

theorem run_succ_of_next {s t : State} (h : step s = .next t) (k : Nat) :
    Host.Core.run Sys2Proof.core (k + 1) s = Host.Core.run Sys2Proof.core k t := by
  simp only [Host.Core.run, core_step, h]

/-- The command `w` in flight with `n` cycles left, in which the host is idle before it does `rest`. -/
def waiting (w : Word) (rest : List HostCycle) (n : Nat) (s : State) : State :=
  { s with host := List.replicate n ⟨false, .idle⟩ ++ rest, pending := some ⟨w, n⟩ }

/-- An idle cycle before the last only counts (R590). -/
theorem step_waiting (w : Word) (rest : List HostCycle) (n : Nat) (s : State) :
    step (waiting w rest (n + 2) s) = .next (waiting w rest (n + 1) s) :=
  (step_of_busCycle (op := .idle) rfl rfl).trans (clockCommand_of_left (w := w) (n := n) rfl)

/-- The last one performs the word (R590). -/
theorem step_waiting_last (w : Word) (rest : List HostCycle) (s : State) :
    step (waiting w rest 1 s) = performWord w { s with host := rest, pending := none } :=
  step_of_lastCycle (t := takeCycle (waiting w rest 1 s)) (op := .idle) rfl rfl rfl

theorem run_waiting (w : Word) (rest : List HostCycle) (n k : Nat) (s : State) :
    Host.Core.run Sys2Proof.core k (waiting w rest (n + 1 + k) s) = .next (waiting w rest (n + 1) s) := by
  induction k with
  | zero => rfl
  | succ k ih =>
    have hstep : step (waiting w rest (n + 1 + (k + 1)) s) = .next (waiting w rest (n + 1 + k) s) := by
      rw [show n + 1 + (k + 1) = n + k + 2 by omega, show n + 1 + k = n + k + 1 by omega]
      exact step_waiting w rest (n + k) s
    rw [run_succ_of_next hstep, ih]

theorem run_waiting_all (w : Word) (rest : List HostCycle) (n : Nat) (s : State) :
    Host.Core.run Sys2Proof.core (n + 1) (waiting w rest (n + 1) s) =
      performWord w { s with host := rest, pending := none } := by
  induction n with
  | zero => rw [run_one, step_waiting_last]
  | succ n ih => rw [run_succ_of_next (step_waiting w rest n s), ih]

end Sys2Proof.Machine
end

section
/-! PROOFS. O4, O5, O17: BUSY for LAT cycles (70_reset R590), a write while it is 1 (R591, R592), and the power-on reset
(R580 to R582). -/

namespace Sys2Proof.Machine

/-- Settles O4: the cycle of the CMD write leaves LAT - 1 idle cycles of waiting, and the last performs the word. -/
theorem busyLastsExactlyLatCycles : Obligations.BusyLastsExactlyLatCycles := by
  intro s addr w rest hidle hcmd hhost
  have hperform : { s with host := rest, pending := none } = { s with host := rest } := by
    rw [← (hidle : s.pending = none)]
  have hstart : step s = clockCommand
      { s with host := List.replicate (latency w s - 1) ⟨false, .idle⟩ ++ rest, pending := some ⟨w, latency w s⟩ } := by
    rw [step_writeCmd hidle hcmd (by rw [nextCycle, hhost]; rfl), hhost]
    rfl
  refine ⟨one_le_latency w s, ?_⟩
  obtain ⟨m, hlat⟩ := Nat.exists_eq_add_of_le' (one_le_latency w s)
  rw [hlat, Nat.add_sub_cancel] at hstart
  rw [hlat]
  cases m with
  | zero =>
    refine ⟨?_, fun k hk hlt => absurd hk (Nat.not_le.2 hlt)⟩
    rw [run_one, hstart, clockCommand_of_last rfl, ← hperform]
    rfl
  | succ m =>
    have hfirst : step s = .next (waiting w rest (m + 1) s) := hstart.trans (clockCommand_of_left rfl)
    refine ⟨?_, fun k hk hlt => ?_⟩
    · rw [run_succ_of_next hfirst, run_waiting_all, hperform]
    · obtain ⟨j, rfl⟩ := Nat.exists_eq_add_of_le' hk
      obtain ⟨l, rfl⟩ := Nat.exists_eq_add_of_le (show j ≤ m by omega)
      have hrun := run_waiting w rest l j s
      rw [show l + 1 + j = j + l + 1 by omega, ← run_succ_of_next hfirst] at hrun
      exact ⟨_, hrun, by rw [show j + l + 1 + 1 - (j + 1) = l + 1 by omega]; rfl, rfl⟩

/-- Settles O5: a dropped write leaves only the clock of the command in flight to run. -/
theorem writeWhileBusyOnlySetsColl : Obligations.WriteWhileBusyOnlySetsColl := by
  intro s w addr v hhost
  have hbusy : ∀ {p}, s.pending = some p → ¬idle s := fun hpending hidle => by cases hidle.symm.trans hpending
  exact ⟨fun n hpending => (step_write_of_busy (hbusy hpending) hhost).trans (clockCommand_of_left hpending),
    fun hpending => (step_write_of_busy (hbusy hpending) hhost).trans (clockCommand_of_last hpending)⟩

/-- Settles O17: the cycle is a power-on reset, whose registers have the reset values and whose memory is empty. -/
theorem powerOnResetCycle : Obligations.PowerOnResetCycle := by
  intro s op hhost
  have hstep : step s = .next (powerOnReset (takeCycle s)) := by
    have hrst : (nextCycle s).rst = true := by rw [hhost]
    rcases step_cases s with ⟨_, heq⟩ | ⟨_, hlow, _⟩ | ⟨_, hlow, _⟩
    · exact heq
    · exact absurd (hrst.symm.trans hlow) (by decide)
    · exact absurd (hrst.symm.trans hlow) (by decide)
  obtain ⟨hvalue, -, -⟩ := registersHoldTheirResetValues
  have hregs : ∀ r, readReg (powerOnReset (takeCycle s)) r = readReg (State.resetOf s.inst) r := by
    intro r
    cases r <;> rfl
  exact ⟨_, hstep, rfl, fun r => (hregs r).trans (hvalue s.inst r), fun _ => rfl⟩

end Sys2Proof.Machine
end
